-- ==== Sys2Proof/Word.lean ====
section
/-! DEFINITION. The machine's words: bytes, command words and 128-bit bus words (R7, R8). -/

namespace Sys2Proof

/-- A Byte is an 8-bit unsigned value (R8). -/
abbrev Byte := BitVec 8

/-- The command word on the `cmd` port (R7, R60). -/
abbrev CmdWord := BitVec 32

/-- A value on the `din` or `dout` bus (R7). -/
abbrev BusWord := BitVec 128

end Sys2Proof
end

