-- ==== Sys2Proof/Syntax.lean ====
section
/-! DEFINITION. The commands, the opcodes and the response codes. -/

namespace Sys2Proof

/-- The 20 commands (R64), one constructor per row of the opcode table, with the operands the command word carries (R62).
The Block operand of LDST and KEYEXP is not in the word: it is what was sampled from din (R60, R63). -/
inductive Instr where
  | nop
  | ldst
  | keyexp
  | keyfix
  | ldrk (r : BitVec 4)
  | xtime (a : Byte)
  | gfmul (a b : Byte)
  | sbox (a : Byte)
  | isbox (a : Byte)
  | subb
  | isubb
  | shrow
  | ishrow
  | mixcol
  | imixcol
  | ark (r : BitVec 4)
  | encrnd (r : BitVec 4)
  | decrnd (r : BitVec 4)
  | encblk
  | decblk
  deriving DecidableEq, Repr

/-- The 20 defined values of the OP field, by name (R64). -/
inductive Opcode where
  | nop | ldst | keyexp | keyfix | ldrk
  | xtime | gfmul | sbox | isbox
  | subb | isubb | shrow | ishrow | mixcol | imixcol | ark
  | encrnd | decrnd | encblk | decblk
  deriving DecidableEq, Repr

/-- The six response codes (R181). Codes 0x6 to 0xF are never produced, so they have no constructor. -/
inductive RspCode where
  | ok
  | errOpcode
  | errRsv
  | errRange
  | errNoKey
  | errNoState
  deriving DecidableEq, Repr

end Sys2Proof
end

