-- ==== Sys2Proof/WellFormed.lean ====
section
/-! DEFINITION. Which commands have their operand fields in the range the opcode map gives (R64). A command outside it can
still be spelled, and is answered by ERR_RANGE (R65). -/

namespace Sys2Proof

/-- The operand ranges of R64: R of LDRK and ARK in 0..10, of ENCRND in 1..10, of DECRND in 0..9, A of GFMUL in 0x00..0x0F. -/
def Instr.wellFormed : Instr → Bool
  | .nop | .ldst | .keyexp | .keyfix => true
  | .ldrk r => r.toNat ≤ 10
  | .xtime _ => true
  | .gfmul a _ => a.toNat ≤ 0x0F
  | .sbox _ | .isbox _ => true
  | .subb | .isubb | .shrow | .ishrow | .mixcol | .imixcol => true
  | .ark r => r.toNat ≤ 10
  | .encrnd r => 1 ≤ r.toNat && r.toNat ≤ 10
  | .decrnd r => r.toNat ≤ 9
  | .encblk | .decblk => true

end Sys2Proof
end

