-- ==== Sys2Proof/Decode.lean ====
section
/-! DEFINITION. The command decoder, total over all 2^32 words (R66, R67), and after it the encoder (R69). -/

namespace Sys2Proof

/-! ### The fields of a command word (R61, R62) -/

/-- OP, bits 31:24. -/
def CmdWord.op (w : CmdWord) : Byte := w.extractLsb' 24 8

/-- A, bits 23:16. -/
def CmdWord.a (w : CmdWord) : Byte := w.extractLsb' 16 8

/-- B, bits 15:8. -/
def CmdWord.b (w : CmdWord) : Byte := w.extractLsb' 8 8

/-- R, bits 7:4. -/
def CmdWord.r (w : CmdWord) : BitVec 4 := w.extractLsb' 4 4

/-- Z, bits 3:0, which must be zero in every command. -/
def CmdWord.z (w : CmdWord) : BitVec 4 := w.extractLsb' 0 4

/-- The word with the given fields, Z zero. -/
def CmdWord.ofFields (op a b : Byte) (r : BitVec 4) : CmdWord := (op ++ a ++ b ++ r ++ 0#4).cast rfl

/-! ### The opcode map (R64, R65) -/

/-- The OP value of each opcode (R64). -/
def Opcode.byte : Opcode → Byte
  | .nop => 0x00
  | .ldst => 0x01
  | .keyexp => 0x02
  | .keyfix => 0x03
  | .ldrk => 0x04
  | .xtime => 0x10
  | .gfmul => 0x11
  | .sbox => 0x12
  | .isbox => 0x13
  | .subb => 0x20
  | .isubb => 0x21
  | .shrow => 0x22
  | .ishrow => 0x23
  | .mixcol => 0x24
  | .imixcol => 0x25
  | .ark => 0x26
  | .encrnd => 0x30
  | .decrnd => 0x31
  | .encblk => 0x38
  | .decblk => 0x39

/-- The opcode an OP value names; the 236 other values name none (R67). -/
def Opcode.ofByte (v : Byte) : Option Opcode :=
  match v.toNat with
  | 0x00 => some .nop
  | 0x01 => some .ldst
  | 0x02 => some .keyexp
  | 0x03 => some .keyfix
  | 0x04 => some .ldrk
  | 0x10 => some .xtime
  | 0x11 => some .gfmul
  | 0x12 => some .sbox
  | 0x13 => some .isbox
  | 0x20 => some .subb
  | 0x21 => some .isubb
  | 0x22 => some .shrow
  | 0x23 => some .ishrow
  | 0x24 => some .mixcol
  | 0x25 => some .imixcol
  | 0x26 => some .ark
  | 0x30 => some .encrnd
  | 0x31 => some .decrnd
  | 0x38 => some .encblk
  | 0x39 => some .decblk
  | _ => none

/-- The bits an opcode fixes (R65). -/
def Opcode.mask : Opcode → CmdWord
  | .nop | .ldst | .keyexp | .keyfix => 0xFFFFFFFF
  | .ldrk => 0xFFFFFF0F
  | .xtime => 0xFF00FFFF
  | .gfmul => 0xFF0000FF
  | .sbox | .isbox => 0xFF00FFFF
  | .subb | .isubb | .shrow | .ishrow | .mixcol | .imixcol => 0xFFFFFFFF
  | .ark | .encrnd | .decrnd => 0xFFFFFF0F
  | .encblk | .decblk => 0xFFFFFFFF

/-- The legal pattern of an opcode: `match = OP << 24` (R65). -/
def Opcode.pattern (o : Opcode) : CmdWord := o.byte.setWidth 32 <<< 24

/-- The command an opcode makes of a word's operand fields (R62, R64). -/
def Opcode.command (o : Opcode) (w : CmdWord) : Instr :=
  match o with
  | .nop => .nop
  | .ldst => .ldst
  | .keyexp => .keyexp
  | .keyfix => .keyfix
  | .ldrk => .ldrk (CmdWord.r w)
  | .xtime => .xtime (CmdWord.a w)
  | .gfmul => .gfmul (CmdWord.a w) (CmdWord.b w)
  | .sbox => .sbox (CmdWord.a w)
  | .isbox => .isbox (CmdWord.a w)
  | .subb => .subb
  | .isubb => .isubb
  | .shrow => .shrow
  | .ishrow => .ishrow
  | .mixcol => .mixcol
  | .imixcol => .imixcol
  | .ark => .ark (CmdWord.r w)
  | .encrnd => .encrnd (CmdWord.r w)
  | .decrnd => .decrnd (CmdWord.r w)
  | .encblk => .encblk
  | .decblk => .decblk

/-! ### The decoder -/

/-- What the decoder makes of a command word: one command, or the error code that answers the word (R67). -/
inductive Decoded where
  | command (i : Instr)
  | rejected (code : RspCode)
  deriving DecidableEq, Repr

/-- The checks of R66 that look at the word alone and at no operand's range, in R66's order: the opcode, then the
must-be-zero fields. -/
def decode (w : CmdWord) : Decoded :=
  match Opcode.ofByte (CmdWord.op w) with
  | none => .rejected .errOpcode
  | some o => if w &&& o.mask = o.pattern then .command (o.command w) else .rejected .errRsv

/-- The command a word stands for, if it stands for one. -/
def Decoded.toOption : Decoded → Option Instr
  | .command i => some i
  | .rejected _ => none

/-- The decoder's reading of an opcode-table word: `nbits` is 32 for every row (R60), and the word is `w`. -/
def decodeTableWord (nbits w : Nat) : Option Instr :=
  (decode (BitVec.ofNat 32 (w % 2 ^ nbits))).toOption

/-! ### The encoder (R69) -/

/-- The opcode of a command (R64). -/
def Instr.opcode : Instr → Opcode
  | .nop => .nop
  | .ldst => .ldst
  | .keyexp => .keyexp
  | .keyfix => .keyfix
  | .ldrk _ => .ldrk
  | .xtime _ => .xtime
  | .gfmul _ _ => .gfmul
  | .sbox _ => .sbox
  | .isbox _ => .isbox
  | .subb => .subb
  | .isubb => .isubb
  | .shrow => .shrow
  | .ishrow => .ishrow
  | .mixcol => .mixcol
  | .imixcol => .imixcol
  | .ark _ => .ark
  | .encrnd _ => .encrnd
  | .decrnd _ => .decrnd
  | .encblk => .encblk
  | .decblk => .decblk

/-- The command word of a command (the encoding column of R69). -/
def encode (i : Instr) : CmdWord :=
  match i with
  | .nop => CmdWord.ofFields 0x00 0 0 0
  | .ldst => CmdWord.ofFields 0x01 0 0 0
  | .keyexp => CmdWord.ofFields 0x02 0 0 0
  | .keyfix => CmdWord.ofFields 0x03 0 0 0
  | .ldrk r => CmdWord.ofFields 0x04 0 0 r
  | .xtime a => CmdWord.ofFields 0x10 a 0 0
  | .gfmul a b => CmdWord.ofFields 0x11 a b 0
  | .sbox a => CmdWord.ofFields 0x12 a 0 0
  | .isbox a => CmdWord.ofFields 0x13 a 0 0
  | .subb => CmdWord.ofFields 0x20 0 0 0
  | .isubb => CmdWord.ofFields 0x21 0 0 0
  | .shrow => CmdWord.ofFields 0x22 0 0 0
  | .ishrow => CmdWord.ofFields 0x23 0 0 0
  | .mixcol => CmdWord.ofFields 0x24 0 0 0
  | .imixcol => CmdWord.ofFields 0x25 0 0 0
  | .ark r => CmdWord.ofFields 0x26 0 0 r
  | .encrnd r => CmdWord.ofFields 0x30 0 0 r
  | .decrnd r => CmdWord.ofFields 0x31 0 0 r
  | .encblk => CmdWord.ofFields 0x38 0 0 0
  | .decblk => CmdWord.ofFields 0x39 0 0 0

end Sys2Proof
end

