-- ==== Sys2Proof/Config.lean ====
section
/-! DEFINITION. What an implementation fixes, and the free values: constants with no body, which no proof can see. -/

namespace Sys2Proof

/-- LAT_MAX less one (R212, D17: an open parameter, at least 1). FREE. -/
opaque Config.latMaxPred : Nat

/-- LAT_MAX, the bound of every command's latency (R212). -/
def Config.latMax : Nat := Config.latMaxPred + 1

/-- Whether a command in flight completes at an edge the schedule says nothing about (R212: LAT is a free draw). FREE. -/
opaque Config.freeFinish : Nat → Bool

/-- The Block that ST holds after an rst edge (R32, R200: unspecified). FREE. -/
opaque Config.freeState : Nat → BusWord

/-- The Blocks that RK[0..10] hold after an rst edge (R32, R200: unspecified), by draw and by index. FREE. -/
opaque Config.freeRoundKey : Nat → Nat → BusWord

/-- The byte that Y holds after an rst edge (R32, R200: unspecified). FREE. -/
opaque Config.freeScalar : Nat → Byte

/-- What dout carries while a command is in flight (R207). FREE. -/
opaque Config.freeDout : Nat → BusWord

/-- What yout carries while a command is in flight (R207). FREE. -/
opaque Config.freeYout : Nat → Byte

/-- What status carries while a command is in flight (R207). FREE. -/
opaque Config.freeStatus : Nat → Byte

/-- What rsp_code carries while rsp_valid = 0 (R207). FREE. -/
opaque Config.freeRspCode : Nat → BitVec 4

end Sys2Proof
end

