-- ==== Sys2Proof/Machine/Galois.lean ====
section
/-! DEFINITION. The GF(2^8) byte multiplier (R80, R81). -/

namespace Sys2Proof.Machine

/-- `xtime(v)`: a left shift within 8 bits, and XOR 0x1B where bit 7 was set (R80). -/
def xtime (v : Byte) : Byte :=
  if v.getLsbD 7 then (v <<< 1) ^^^ 0x1B else v <<< 1

/-- `d` where the selecting bit is set, else zero. -/
def selected (bit : Bool) (d : Byte) : Byte := if bit then d else 0

/-- `FieldMultiply(a, b)`: the XOR of the doublings b, 2b, 4b, 8b that bits 0 to 3 of a select (R81). Bits a[7:4] are not
read (R83). -/
def fieldMultiply (a b : Byte) : Byte :=
  let d0 := b
  let d1 := xtime d0
  let d2 := xtime d1
  let d3 := xtime d2
  selected (a.getLsbD 0) d0 ^^^ selected (a.getLsbD 1) d1 ^^^ selected (a.getLsbD 2) d2 ^^^ selected (a.getLsbD 3) d3

end Sys2Proof.Machine
end

