-- ==== Sys2Proof/Machine/Block.lean ====
section
/-! DEFINITION. Blocks: the 16-byte buffer, the 4x4 column-major matrix and the 128-bit bus value (R9, R42, R43). -/

namespace Sys2Proof.Machine

/-- A 4-byte column; position k is row k of the matrix (R101). -/
structure Col where
  r0 : Byte
  r1 : Byte
  r2 : Byte
  r3 : Byte
  deriving DecidableEq, Repr

/-- The cell of a column at row k. -/
def Col.get (t : Col) : Fin 4 → Byte
  | 0 => t.r0
  | 1 => t.r1
  | 2 => t.r2
  | 3 => t.r3

/-- The column whose cell at row k is `f k`. -/
def Col.ofFn (f : Fin 4 → Byte) : Col := ⟨f 0, f 1, f 2, f 3⟩

/-- A 4x4 byte matrix, held as its four columns (R9). -/
structure Mat where
  c0 : Col
  c1 : Col
  c2 : Col
  c3 : Col
  deriving DecidableEq, Repr

/-- `col(M, c)` (R9). -/
def Mat.col (m : Mat) : Fin 4 → Col
  | 0 => m.c0
  | 1 => m.c1
  | 2 => m.c2
  | 3 => m.c3

/-- `M[r][c]`, the cell at row r and column c (R9). -/
def Mat.get (m : Mat) (r c : Fin 4) : Byte := (m.col c).get r

/-- The matrix with `M[r][c] = f r c`. -/
def Mat.ofFn (f : Fin 4 → Fin 4 → Byte) : Mat :=
  ⟨Col.ofFn (f · 0), Col.ofFn (f · 1), Col.ofFn (f · 2), Col.ofFn (f · 3)⟩

/-- The matrix of zeros. -/
def Mat.zero : Mat := Mat.ofFn fun _ _ => 0

/-- A 16-byte buffer: byte 0 to byte 15 (R9). It is what a rule computes with, never a part of State. -/
abbrev Buf := Fin 16 → Byte

/-- The buffer index of matrix cell [row][col]: `col*4+row` (R9). -/
def cellIndex (r c : Fin 4) : Fin 16 := ⟨4 * c.val + r.val, by omega⟩

/-- The row of a buffer index. -/
def indexRow (i : Fin 16) : Fin 4 := ⟨i.val % 4, by omega⟩

/-- The column of a buffer index. -/
def indexCol (i : Fin 16) : Fin 4 := ⟨i.val / 4, by omega⟩

/-- `mat(buf)`: `M[r][c] = buf[4c+r]` (R9). -/
def mat (b : Buf) : Mat := Mat.ofFn fun r c => b (cellIndex r c)

/-- `flat(M)`: the byte at index 4c+r is `M[r][c]` (R9). -/
def flat (m : Mat) : Buf := fun i => m.get (indexRow i) (indexCol i)

/-- `bytes(v)`: byte i of the Block travels on bits [127-8i : 120-8i] (R42). -/
def bytes (v : BusWord) : Buf := fun i => v.extractLsb' (120 - 8 * i.val) 8

/-- `bus(buf)`, the inverse of `bytes` (R42): byte 0 on the highest bits. -/
def bus (b : Buf) : BusWord :=
  (b 0 ++ b 1 ++ b 2 ++ b 3 ++ b 4 ++ b 5 ++ b 6 ++ b 7 ++
    b 8 ++ b 9 ++ b 10 ++ b 11 ++ b 12 ++ b 13 ++ b 14 ++ b 15).cast rfl

/-- The matrix that a bus value carries, on entry (R43). -/
def Mat.ofBus (v : BusWord) : Mat := mat (bytes v)

/-- The bus value of a matrix, on exit (R43). -/
def Mat.toBus (m : Mat) : BusWord := bus (flat m)

end Sys2Proof.Machine
end

