-- ==== Sys2Proof/Machine/RoundUnit.lean ====
section
/-! DEFINITION. The round unit: the round primitives, the rounds and the two 10-round pipelines, as functions on a matrix
(R120 to R124, R150 to R153). -/

namespace Sys2Proof.Machine

/-- The round-key store's contents, RK[0..10] (R25). -/
abbrev RoundKeys := Vector Mat 11

/-- `SubBytes(M)` (R120). -/
def subBytes (rom : Rom) (m : Mat) : Mat := Mat.ofFn fun r c => rom.sboxAt (m.get r c)

/-- `InvSubBytes(M)` (R120). -/
def invSubBytes (rom : Rom) (m : Mat) : Mat := Mat.ofFn fun r c => rom.invSboxAt (m.get r c)

/-- `ShiftRows(M)[r][c] = M[r][(c + r) mod 4]` (R121). -/
def shiftRows (m : Mat) : Mat := Mat.ofFn fun r c => m.get r (c + r)

/-- `InvShiftRows(M)[r][c] = M[r][(c - r) mod 4]` (R121). -/
def invShiftRows (m : Mat) : Mat := Mat.ofFn fun r c => m.get r (c - r)

/-- One cell of a column's product with the matrix whose row 0 is (k0, k1, k2, k3) and whose row r is row 0 rotated by r
(R122, R123). -/
def mixCell (k0 k1 k2 k3 : Byte) (t : Col) (r : Fin 4) : Byte :=
  fieldMultiply k0 (t.get r) ^^^ fieldMultiply k1 (t.get (r + 1)) ^^^
  fieldMultiply k2 (t.get (r + 2)) ^^^ fieldMultiply k3 (t.get (r + 3))

/-- `MixColumns(M)`, coefficients 2, 3, 1, 1 (R122). -/
def mixColumns (m : Mat) : Mat := Mat.ofFn fun r c => mixCell 2 3 1 1 (m.col c) r

/-- `InvMixColumns(M)`, coefficients 14, 11, 13, 9 (R123). -/
def invMixColumns (m : Mat) : Mat := Mat.ofFn fun r c => mixCell 14 11 13 9 (m.col c) r

/-- `AddRoundKey(M, K)` (R124). -/
def addRoundKey (m k : Mat) : Mat := Mat.ofFn fun r c => m.get r c ^^^ k.get r c

/-- `EncRound(M, rnd, RK)`, for rnd in 1..10; round 10 has no MixColumns (R152). -/
def encRound (rom : Rom) (rk : RoundKeys) (rnd : Fin 11) (m : Mat) : Mat :=
  let m := shiftRows (subBytes rom m)
  let m := if rnd = 10 then m else mixColumns m
  addRoundKey m (rk.get rnd)

/-- `DecRound(M, rnd, RK)`, for rnd in 0..9; round 0 has no InvMixColumns (R153). -/
def decRound (rom : Rom) (rk : RoundKeys) (rnd : Fin 11) (m : Mat) : Mat :=
  let m := invSubBytes rom (invShiftRows m)
  let m := addRoundKey m (rk.get rnd)
  if rnd = 0 then m else invMixColumns m

/-- `for rnd = 1 to 10` (R150). -/
def encRounds : List (Fin 11) := [1, 2, 3, 4, 5, 6, 7, 8, 9, 10]

/-- `for rnd = 9 downto 0` (R151). -/
def decRounds : List (Fin 11) := [9, 8, 7, 6, 5, 4, 3, 2, 1, 0]

/-- `Encrypt(M, RK)` (R150). -/
def encrypt (rom : Rom) (rk : RoundKeys) (m : Mat) : Mat :=
  encRounds.foldl (fun m rnd => encRound rom rk rnd m) (addRoundKey m (rk.get 0))

/-- `Decrypt(M, RK)` (R151). -/
def decrypt (rom : Rom) (rk : RoundKeys) (m : Mat) : Mat :=
  decRounds.foldl (fun m rnd => decRound rom rk rnd m) (addRoundKey m (rk.get 10))

end Sys2Proof.Machine
end

