-- ==== Sys2Proof/Machine/State.lean ====
section
/-! DEFINITION. The state of the core, as plain data: the architectural state of R20, the interface of R201 to R204, and what
the outside drives at the coming clock edges (R205). Reset is R200 and R32. -/

namespace Sys2Proof.Machine

/-- STATUS, field by field (R28). No command writes it as data; `Status.word` gives the byte on the status port. -/
structure Status where
  /-- Bit 0, KEY_VALID: RK holds an expanded key. -/
  keyValid : Bool
  /-- Bit 1, ST_VALID: ST holds a value written by a command. -/
  stValid : Bool
  /-- Bit 2, Y_VALID: Y holds a value written by a command. -/
  yValid : Bool
  /-- Bit 3, ERR, sticky: some command since reset ended in error. -/
  err : Bool
  /-- Bits 7:4, LAST_CODE: the response code of the most recently completed command. -/
  lastCode : RspCode
  deriving DecidableEq, Repr

/-- STATUS = 0x00 (R200). -/
def Status.cleared : Status := ⟨false, false, false, false, .ok⟩

/-- Where the handshake stands between two edges (R201 to R204). -/
inductive Phase where
  /-- rst was 1 at the last edge: cmd_ready = 0, rsp_valid = 0 (R201). -/
  | inReset
  /-- cmd_ready = 1, rsp_valid = 0 (R201). -/
  | idle
  /-- A command is in flight, and `spent` edges after its acceptance have passed without completing it: cmd_ready = 0 (R203). -/
  | busy (spent : Nat)
  /-- The completion cycle of a command: cmd_ready = 1, rsp_valid = 1, rsp_code = code (R204). -/
  | done (code : RspCode)
  deriving DecidableEq, Repr

/-- What the input ports carry at one rising edge (R205), and the core's own timing at it. -/
structure Edge where
  rst : Bool
  cmdValid : Bool
  cmd : CmdWord
  din : BusWord
  /-- Whether a command in flight completes at this edge: LAT, which the spec leaves free (R212). -/
  finish : Bool
  deriving DecidableEq, Repr

/-- The state between two rising edges. -/
structure State where
  /-- SBOX, INV_SBOX, RCON and FIXED_KEY (R21 to R24). -/
  rom : Rom
  /-- RK[0..10] (R25). -/
  rk : RoundKeys
  /-- ST (R26). -/
  st : Mat
  /-- Y (R27). -/
  y : Byte
  /-- STATUS (R28). -/
  status : Status
  /-- The handshake (R201 to R204). -/
  phase : Phase
  /-- cmd as sampled at the last acceptance (R202). -/
  cmdLatch : CmdWord
  /-- din as sampled at the last acceptance (R202). -/
  dinLatch : BusWord
  /-- What the ports carry at the coming edges, the next one first (log 6). -/
  pins : List Edge
  /-- The model's own counter of free values: each edge advances it (log 5). -/
  draws : Nat
  deriving DecidableEq, Repr

/-- The core stops with no fault: an error is a response code, and the core keeps accepting commands after it (R180). So there
is nothing to raise, and this type has no member. -/
inductive Fault where
  deriving DecidableEq, Repr

/-- What a step may refuse. -/
inductive Refusal where
  /-- Raised by a refused arm of `exec` alone, for a command with no meaning yet; safe. No arm is refused in this model. -/
  | notModelled (mnemonic : String)
  deriving DecidableEq, Repr

/-- What a step of this machine answers. -/
abbrev Outcome := Host.Outcome State Fault Refusal

/-- The machine right after reset, released and idle (R32, R200, R201): STATUS = 0x00, the ROMs hold their contents, no command
is in flight and nothing is driven. The spec gives ST, Y, RK and the sampled inputs no value; DESIGN CHOICE zero (log 1, 2, 3, 8). -/
def State.reset : State where
  rom := Rom.contents
  rk := Vector.replicate 11 Mat.zero
  st := Mat.zero
  y := 0
  status := Status.cleared
  phase := .idle
  cmdLatch := 0
  dinLatch := 0
  pins := []
  draws := 0

end Sys2Proof.Machine
end

