-- ==== Sys2Proof/Machine/Flags.lean ====
section
/-! DEFINITION. STATUS: the codes' values, the byte on the status port, and the updates a command makes (R28, R181, R185,
R186). -/

namespace Sys2Proof

/-- The 4-bit value of a response code (R181). -/
def RspCode.bits : RspCode → BitVec 4
  | .ok => 0x0
  | .errOpcode => 0x1
  | .errRsv => 0x2
  | .errRange => 0x3
  | .errNoKey => 0x4
  | .errNoState => 0x5

namespace Machine

/-- STATUS as the 8 bits of R28: LAST_CODE, ERR, Y_VALID, ST_VALID, KEY_VALID from bit 7 down. -/
def Status.word (s : Status) : Byte :=
  (s.lastCode.bits ++ BitVec.ofBool s.err ++ BitVec.ofBool s.yValid ++ BitVec.ofBool s.stValid ++ BitVec.ofBool s.keyValid).cast rfl

/-- STATUS after an error: ERR set, LAST_CODE the error's code, the valid bits kept (R185). -/
def Status.afterError (code : RspCode) (s : Status) : Status := { s with err := true, lastCode := code }

/-- STATUS after a command that ends OK: LAST_CODE is OK, ERR kept (R186). -/
def Status.afterOk (s : Status) : Status := { s with lastCode := .ok }

/-- KEY_VALID set (R104, R105). -/
def Status.setKeyValid (s : Status) : Status := { s with keyValid := true }

/-- ST_VALID set (R106, R171). -/
def Status.setStValid (s : Status) : Status := { s with stValid := true }

/-- Y_VALID set (R90 to R93). -/
def Status.setYValid (s : Status) : Status := { s with yValid := true }

end Machine

end Sys2Proof
end

