-- ==== Sys2Proof/Machine/KeySchedule.lean ====
section
/-! DEFINITION. The key-schedule expander (R100 to R103). -/

namespace Sys2Proof.Machine

/-- `rot(t0, t1, t2, t3) = (t1, t2, t3, t0)` (R101). -/
def rot (t : Col) : Col := ⟨t.r1, t.r2, t.r3, t.r0⟩

/-- `ksCore(t, rnd)`: rotate, substitute each byte by the forward table, XOR byte 0 with RCON[rnd] (R102). -/
def ksCore (rom : Rom) (rnd : Nat) (t : Col) : Col :=
  let u := rot t
  ⟨rom.sboxAt u.r0 ^^^ rom.rconAt rnd, rom.sboxAt u.r1, rom.sboxAt u.r2, rom.sboxAt u.r3⟩

/-- The XOR of two columns, cell by cell. -/
def Col.xor (s t : Col) : Col := ⟨s.r0 ^^^ t.r0, s.r1 ^^^ t.r1, s.r2 ^^^ t.r2, s.r3 ^^^ t.r3⟩

/-- Round key rnd from round key rnd-1, its columns in order (the inner loop of R103): column 0 takes ksCore of the previous
key's column 3, and column j > 0 takes this key's column j-1. -/
def nextRoundKey (rom : Rom) (rnd : Nat) (prev : Mat) : Mat :=
  let k0 := prev.c0.xor (ksCore rom rnd prev.c3)
  let k1 := prev.c1.xor k0
  let k2 := prev.c2.xor k1
  let k3 := prev.c3.xor k2
  ⟨k0, k1, k2, k3⟩

/-- Round key n of a key: round key 0 is the key in column-major form (R44, R103). -/
def roundKey (rom : Rom) (key : Buf) : Nat → Mat
  | 0 => mat key
  | n + 1 => nextRoundKey rom (n + 1) (roundKey rom key n)

/-- `ExpandKey(key)`: RK[0..10] (R103). -/
def expandKey (rom : Rom) (key : Buf) : RoundKeys :=
  #v[roundKey rom key 0, roundKey rom key 1, roundKey rom key 2, roundKey rom key 3, roundKey rom key 4, roundKey rom key 5,
    roundKey rom key 6, roundKey rom key 7, roundKey rom key 8, roundKey rom key 9, roundKey rom key 10]

end Sys2Proof.Machine
end

