-- ==== Sys2Proof/Machine/Operands.lean ====
section
/-! DEFINITION. The operands of a command and their ranges (R62, R64, R66), and the Block operand (R60, R63). -/

namespace Sys2Proof.Machine

/-- The round index r, an unsigned integer 0..15, where it is in lo..hi (with hi at most 10). -/
def roundIndex (lo hi : Nat) (r : BitVec 4) : Option (Fin 11) :=
  if h : lo ≤ r.toNat ∧ r.toNat ≤ hi ∧ r.toNat < 11 then some ⟨r.toNat, h.2.2⟩ else none

/-- R of LDRK and ARK: 0..10 (R106, R136). -/
def keyIndex (r : BitVec 4) : Option (Fin 11) := roundIndex 0 10 r

/-- R of ENCRND: 1..10 (R154). -/
def encIndex (r : BitVec 4) : Option (Fin 11) := roundIndex 1 10 r

/-- R of DECRND: 0..9 (R155). -/
def decIndex (r : BitVec 4) : Option (Fin 11) := roundIndex 0 9 r

/-- A of GFMUL, where a[7:4] = 0 (R91). -/
def coefficient (a : Byte) : Option Byte := if a.extractLsb' 4 4 = 0 then some a else none

/-- The Block operand: `bytes(din)`, of din as sampled at acceptance (R62, R202). -/
def State.blockOperand (s : State) : Buf := bytes s.dinLatch

end Sys2Proof.Machine
end

