-- ==== Sys2Proof/Machine/Ops.lean ====
section
/-! DEFINITION. The named operations over the state: reading the storage spaces, writing the registers, ending a command in
success or in error, and reset. -/

namespace Sys2Proof.Machine

/-! ### Storage (R40, R41) -/

/-- The five storage spaces (R40). -/
inductive Space where
  | sbox
  | invSbox
  | rcon
  | fixedKey
  | rk
  deriving DecidableEq, Repr

/-- The 16 bytes of a buffer, byte 0 first. -/
def Buf.toList (b : Buf) : List Byte := List.ofFn b

/-- `MemRead(space, i, n)`: the whole entry at index i, n being the entry's size; no entry outside the index ranges of R40, and
FIXED_KEY is one value, at index 0 (R41). -/
def State.memRead (s : State) (space : Space) (i : Nat) : Option (List Byte) :=
  match space with
  | .sbox => if i < 256 then some [s.rom.sboxAt (BitVec.ofNat 8 i)] else none
  | .invSbox => if i < 256 then some [s.rom.invSboxAt (BitVec.ofNat 8 i)] else none
  | .rcon => if 1 ≤ i ∧ i ≤ 10 then some [s.rom.rconAt i] else none
  | .fixedKey => if i = 0 then some (Buf.toList (bytes s.rom.fixedKey)) else none
  | .rk => if h : i < 11 then some (Buf.toList (flat (s.rk.get ⟨i, h⟩))) else none

/-- `RK[i]` (R25). -/
def State.roundKeyAt (s : State) (i : Fin 11) : Mat := s.rk.get i

/-- `MemWrite` of RK: all 11 Blocks together, and KEY_VALID set (R41, R104, R105). -/
def State.loadKeys (keys : RoundKeys) (s : State) : State :=
  { s with rk := keys, status := s.status.setKeyValid }

/-! ### Registers -/

/-- `ST <- M` (R26). -/
def State.writeSt (m : Mat) (s : State) : State := { s with st := m }

/-- `ST <- M; STATUS.ST_VALID <- 1` (R106, R171). -/
def State.loadSt (m : Mat) (s : State) : State := { s with st := m, status := s.status.setStValid }

/-- `Y <- v; STATUS.Y_VALID <- 1` (R90 to R93). -/
def State.writeY (v : Byte) (s : State) : State := { s with y := v, status := s.status.setYValid }

/-! ### The end of a command -/

/-- `raise E`: STATUS.ERR <- 1, STATUS.LAST_CODE <- E, rsp_code <- E, and nothing else (R185). The completion cycle begins. -/
def State.raise (code : RspCode) (s : State) : State :=
  { s with status := s.status.afterError code, phase := .done code }

/-- The end of a command without error: STATUS.LAST_CODE <- OK, rsp_code <- OK (R186). The completion cycle begins. -/
def State.completeOk (s : State) : State :=
  { s with status := s.status.afterOk, phase := .done .ok }

/-- The command completes with the writes that `s` already holds. -/
def complete (s : State) : Outcome := .next s.completeOk

/-- The command ends in error. -/
def fail (code : RspCode) (s : State) : Outcome := .next (s.raise code)

/-! ### The checks of R66 that look at an operand's range or at STATUS -/

/-- ERR_RANGE where the operand is out of the command's range. -/
def requireRange {α : Type} (operand : Option α) (s : State) (body : α → Outcome) : Outcome :=
  match operand with
  | some v => body v
  | none => fail .errRange s

/-- ERR_NOKEY where KEY_VALID = 0 (R30). -/
def requireKey (s : State) (body : Outcome) : Outcome :=
  if s.status.keyValid then body else fail .errNoKey s

/-- ERR_NOSTATE where ST_VALID = 0 (R30). -/
def requireState (s : State) (body : Outcome) : Outcome :=
  if s.status.stValid then body else fail .errNoState s

/-- A round primitive applied to ST in place, for a command that reads ST and no round key (R130 to R135). -/
def transformSt (f : Mat → Mat) (s : State) : Outcome :=
  requireState s (complete (s.writeSt (f s.st)))

/-- A transform of ST for a command that reads RK and ST (R136, R154 to R157). -/
def transformStWithKeys (f : Mat → Mat) (s : State) : Outcome :=
  requireKey s (requireState s (complete (s.writeSt (f s.st))))

/-! ### Reset (R200, R208) -/

/-- The unspecified contents of RK after an rst edge (R32). -/
def freeRoundKeys (draw : Nat) : RoundKeys := Vector.ofFn fun i => Mat.ofBus (Config.freeRoundKey draw i.val)

/-- What rst = 1 at an edge does: STATUS <- 0x00, any command in flight is abandoned with none of its writes, and ST, Y and RK hold
unspecified values (R200, R208, R32). -/
def State.resetEdge (s : State) : State :=
  { s with
    rk := freeRoundKeys s.draws
    st := Mat.ofBus (Config.freeState s.draws)
    y := Config.freeScalar s.draws
    status := Status.cleared
    phase := .inReset }

end Sys2Proof.Machine
end

