-- ==== Sys2Proof/Machine/Control.lean ====
section
/-! DEFINITION. The control and state-load commands: NOP, LDST. -/

namespace Sys2Proof.Machine

/-- NOP (R170). -/
def execNop (s : State) : Outcome := complete s

/-- LDST: `ST <- mat(bytes(din))` (R171). -/
def execLdst (s : State) : Outcome := complete (s.loadSt (mat s.blockOperand))

end Sys2Proof.Machine
end

