-- ==== Sys2Proof/Machine/Field.lean ====
section
/-! DEFINITION. The field and table commands: XTIME, GFMUL, SBOX, ISBOX. -/

namespace Sys2Proof.Machine

/-- XTIME a: `Y <- xtime(a)` (R90). -/
def execXtime (a : Byte) (s : State) : Outcome := complete (s.writeY (xtime a))

/-- GFMUL a, b: `Y <- FieldMultiply(a, b)`, for a[7:4] = 0 (R91). -/
def execGfmul (a b : Byte) (s : State) : Outcome :=
  requireRange (coefficient a) s fun k => complete (s.writeY (fieldMultiply k b))

/-- SBOX a: `Y <- SBOX[a]` (R92). -/
def execSbox (a : Byte) (s : State) : Outcome := complete (s.writeY (s.rom.sboxAt a))

/-- ISBOX a: `Y <- INV_SBOX[a]` (R93). -/
def execIsbox (a : Byte) (s : State) : Outcome := complete (s.writeY (s.rom.invSboxAt a))

end Sys2Proof.Machine
end

