-- ==== Sys2Proof/Machine/Keys.lean ====
section
/-! DEFINITION. The key commands: KEYEXP, KEYFIX, LDRK. -/

namespace Sys2Proof.Machine

/-- KEYEXP: `RK[0..10] <- ExpandKey(bytes(din))` (R104). -/
def execKeyexp (s : State) : Outcome := complete (s.loadKeys (expandKey s.rom s.blockOperand))

/-- KEYFIX: `RK[0..10] <- ExpandKey(FIXED_KEY)` (R105). -/
def execKeyfix (s : State) : Outcome := complete (s.loadKeys (expandKey s.rom (bytes s.rom.fixedKey)))

/-- LDRK r: `ST <- RK[r]`, for r in 0..10, once a key is loaded (R106). -/
def execLdrk (r : BitVec 4) (s : State) : Outcome :=
  requireRange (keyIndex r) s fun i => requireKey s (complete (s.loadSt (s.roundKeyAt i)))

end Sys2Proof.Machine
end

