-- ==== Sys2Proof/Machine/Pipeline.lean ====
section
/-! DEFINITION. The commands that run one round or a whole pipeline on ST: ENCRND, DECRND, ENCBLK, DECBLK. -/

namespace Sys2Proof.Machine

/-- ENCRND r: `ST <- EncRound(ST, r, RK)`, for r in 1..10 (R154). -/
def execEncrnd (r : BitVec 4) (s : State) : Outcome :=
  requireRange (encIndex r) s fun i => transformStWithKeys (encRound s.rom s.rk i) s

/-- DECRND r: `ST <- DecRound(ST, r, RK)`, for r in 0..9 (R155). -/
def execDecrnd (r : BitVec 4) (s : State) : Outcome :=
  requireRange (decIndex r) s fun i => transformStWithKeys (decRound s.rom s.rk i) s

/-- ENCBLK: `ST <- Encrypt(ST, RK)` (R156). -/
def execEncblk (s : State) : Outcome := transformStWithKeys (encrypt s.rom s.rk) s

/-- DECBLK: `ST <- Decrypt(ST, RK)` (R157). -/
def execDecblk (s : State) : Outcome := transformStWithKeys (decrypt s.rom s.rk) s

end Sys2Proof.Machine
end

