-- ==== Sys2Proof/Machine/Primitives.lean ====
section
/-! DEFINITION. The commands that apply one round primitive to ST: SUBB, ISUBB, SHROW, ISHROW, MIXCOL, IMIXCOL, ARK. -/

namespace Sys2Proof.Machine

/-- SUBB: `ST <- SubBytes(ST)` (R130). -/
def execSubb (s : State) : Outcome := transformSt (subBytes s.rom) s

/-- ISUBB: `ST <- InvSubBytes(ST)` (R131). -/
def execIsubb (s : State) : Outcome := transformSt (invSubBytes s.rom) s

/-- SHROW: `ST <- ShiftRows(ST)` (R132). -/
def execShrow (s : State) : Outcome := transformSt shiftRows s

/-- ISHROW: `ST <- InvShiftRows(ST)` (R133). -/
def execIshrow (s : State) : Outcome := transformSt invShiftRows s

/-- MIXCOL: `ST <- MixColumns(ST)` (R134). -/
def execMixcol (s : State) : Outcome := transformSt mixColumns s

/-- IMIXCOL: `ST <- InvMixColumns(ST)` (R135). -/
def execImixcol (s : State) : Outcome := transformSt invMixColumns s

/-- ARK r: `ST <- AddRoundKey(ST, RK[r])`, for r in 0..10 (R136). -/
def execArk (r : BitVec 4) (s : State) : Outcome :=
  requireRange (keyIndex r) s fun i => transformStWithKeys (fun m => addRoundKey m (s.roundKeyAt i)) s

end Sys2Proof.Machine
end

