-- ==== Sys2Proof/Machine/Dispatch.lean ====
section
/-! DEFINITION. One arm per command. -/

namespace Sys2Proof.Machine

def exec (i : Instr) (s : State) : Host.Outcome State Fault Refusal :=
  match i with
  | .nop => Sys2Proof.Machine.execNop s
  | .ldst => Sys2Proof.Machine.execLdst s
  | .keyexp => Sys2Proof.Machine.execKeyexp s
  | .keyfix => Sys2Proof.Machine.execKeyfix s
  | .ldrk r => Sys2Proof.Machine.execLdrk r s
  | .xtime a => Sys2Proof.Machine.execXtime a s
  | .gfmul a b => Sys2Proof.Machine.execGfmul a b s
  | .sbox a => Sys2Proof.Machine.execSbox a s
  | .isbox a => Sys2Proof.Machine.execIsbox a s
  | .subb => Sys2Proof.Machine.execSubb s
  | .isubb => Sys2Proof.Machine.execIsubb s
  | .shrow => Sys2Proof.Machine.execShrow s
  | .ishrow => Sys2Proof.Machine.execIshrow s
  | .mixcol => Sys2Proof.Machine.execMixcol s
  | .imixcol => Sys2Proof.Machine.execImixcol s
  | .ark r => Sys2Proof.Machine.execArk r s
  | .encrnd r => Sys2Proof.Machine.execEncrnd r s
  | .decrnd r => Sys2Proof.Machine.execDecrnd r s
  | .encblk => Sys2Proof.Machine.execEncblk s
  | .decblk => Sys2Proof.Machine.execDecblk s

end Sys2Proof.Machine
end

