-- ==== Sys2Proof/Machine/Clock.lean ====
section
/-! DEFINITION. One rising edge of clk: reset, acceptance, the wait in flight and completion (R200 to R208, R212); and the
command as one transaction (R213). -/

namespace Sys2Proof.Machine

/-- An edge at which the outside drives nothing. -/
def Edge.quiet (finish : Bool) : Edge := ⟨false, false, 0, 0, finish⟩

/-- What the ports carry at the coming edge; past the end of the schedule nothing is driven, and the timing is free (log 6, 7). -/
def State.nextEdge (s : State) : Edge :=
  match s.pins with
  | e :: _ => e
  | [] => Edge.quiet (Config.freeFinish s.draws)

/-- The edge has passed: the schedule and the draw counter move on. -/
def State.tick (s : State) : State := { s with pins := s.pins.tail, draws := s.draws + 1 }

/-- The core takes a command: it samples cmd and din, and the command is in flight (R202, R203). -/
def State.accept (w : CmdWord) (d : BusWord) (s : State) : State :=
  { s with cmdLatch := w, dinLatch := d, phase := .busy 0 }

/-- The sampled command does what its rule says, all at once: R66 on the sampled word (R206, R66). -/
def perform (s : State) : Outcome :=
  match decode s.cmdLatch with
  | .command i => exec i s
  | .rejected code => fail code s

/-- Whether a command that has spent `spent` edges in flight completes at the next one: LAT is free in 1..LAT_MAX (R212). -/
def completesNow (finish : Bool) (spent : Nat) : Bool := finish || decide (Config.latMax ≤ spent + 1)

/-- An edge with cmd_ready = 1 and rst = 0: the offer is taken, or the core is idle (R202, R204). -/
def State.offer (e : Edge) (s : State) : State :=
  if e.cmdValid then s.accept e.cmd e.din else { s with phase := .idle }

/-- One rising edge. Reset wins over everything (R184); in reset and in flight nothing is accepted (R201, R203); a command in
flight completes or waits (R204, R212); otherwise the core is ready (R201, R204). -/
def clockEdge (s : State) : Outcome :=
  let e := s.nextEdge
  if e.rst then .next s.tick.resetEdge
  else
    match s.phase with
    | .inReset => .next { s.tick with phase := .idle }
    | .busy n => if completesNow e.finish n then perform s.tick else .next { s.tick with phase := .busy (n + 1) }
    | .idle => .next (s.tick.offer e)
    | .done _ => .next (s.tick.offer e)

/-- R213's step: a command word and din, applied atomically. -/
def transact (w : CmdWord) (d : BusWord) (s : State) : Outcome := perform (s.accept w d)

/-- The state in which the next edge completes the command word `w`: it was accepted at the last edge, and the coming edge
drives nothing (log 13). -/
def State.placeCommand (s : State) (w : CmdWord) : State :=
  { s with cmdLatch := w, phase := .busy 0, pins := Edge.quiet true :: s.pins }

end Sys2Proof.Machine
end

