-- ==== Sys2Proof/Machine/Step.lean ====
section
/-! DEFINITION. The step: one rising edge of clk. -/

namespace Sys2Proof.Machine

/-- One step is one rising edge (log 6). -/
def step (s : State) : Host.Outcome State Fault Refusal := clockEdge s

/-- The state whose next step runs the command word `w` (log 13). -/
def State.withFetchWord (s : State) (nbits w : Nat) : State := s.placeCommand (BitVec.ofNat 32 (w % 2 ^ nbits))

end Sys2Proof.Machine
end

