-- ==== Sys2Proof/Machine/Ports.lean ====
section
/-! DEFINITION. The output ports between two edges (R201, R204, R205, R207). -/

namespace Sys2Proof.Machine

/-- rst as it is driven towards the coming edge. -/
def State.rstPin (s : State) : Bool := s.nextEdge.rst

/-- The handshake would take a command at the coming edge: idle, or in a completion cycle (R201, R204). -/
def Phase.ready : Phase → Bool
  | .idle | .done _ => true
  | .inReset | .busy _ => false

/-- A command is in flight (R203). -/
def Phase.inFlight : Phase → Bool
  | .busy _ => true
  | .inReset | .idle | .done _ => false

/-- cmd_ready: 0 while rst = 1 and while a command is in flight (R201, R203). -/
def State.cmdReady (s : State) : Bool := s.phase.ready && !s.rstPin

/-- rsp_valid: 1 in the completion cycle alone, 0 while rst = 1 (R201, R204). -/
def State.rspValid (s : State) : Bool :=
  match s.phase with
  | .done _ => !s.rstPin
  | .inReset | .idle | .busy _ => false

/-- rsp_code: the command's code while rsp_valid = 1, else unspecified (R204, R207). -/
def State.rspCode (s : State) : BitVec 4 :=
  match s.phase with
  | .done code => if s.rspValid then code.bits else Config.freeRspCode s.draws
  | .inReset | .idle | .busy _ => Config.freeRspCode s.draws

/-- dout: `bus(flat(ST))`, unspecified while a command is in flight (R26, R207). DEDUCED: in the cycles in reset it carries ST too,
which is then a free value (log 22). -/
def State.dout (s : State) : BusWord := if s.phase.inFlight then Config.freeDout s.draws else s.st.toBus

/-- yout: Y, unspecified while a command is in flight (R27, R207). DEDUCED: in the cycles in reset it carries Y too, which is then
a free value (log 22). -/
def State.yout (s : State) : Byte := if s.phase.inFlight then Config.freeYout s.draws else s.y

/-- status: STATUS, unspecified while a command is in flight (R28, R207). DEDUCED: in the cycles in reset it carries STATUS too, which
is then 0x00 (log 22). -/
def State.statusPort (s : State) : Byte := if s.phase.inFlight then Config.freeStatus s.draws else s.status.word

end Sys2Proof.Machine
end

