-- ==== Sys2Proof/Machine/Commands.lean ====
section
/-! DEFINITION. The host side of the command port: command sequences, what a run of one shows (R214), and the
pseudo-instructions (R70), which the host expands and the core never sees. -/

namespace Sys2Proof.Machine

/-- One command transaction: the command word and din (R60). -/
structure Command where
  word : CmdWord
  din : BusWord
  deriving DecidableEq, Repr

/-- A command that reads din, or one whose din may hold any value (R63): the assembler sends 0. -/
def command (i : Instr) (din : BusWord := 0) : Command := ⟨encode i, din⟩

/-- A finite sequence of commands, each one transaction (R214). -/
def runCommands : List Command → State → Outcome
  | [], s => .next s
  | c :: rest, s =>
    match transact c.word c.din s with
    | .next t => runCommands rest t
    | .fault f => .fault f
    | .refused r => .refused r

/-- The pseudo-instructions (R70). -/
inductive Pseudo where
  | encrypt (block : BusWord)
  | decrypt (block : BusWord)
  | encsteps
  | decsteps
  | setkey (key : BusWord)
  deriving DecidableEq, Repr

/-- The commands a pseudo-instruction expands to (R70). -/
def Pseudo.expand : Pseudo → List Command
  | .encrypt b => [command .ldst b, command .encblk]
  | .decrypt b => [command .ldst b, command .decblk]
  | .encsteps =>
    [command (.ark 0), command (.encrnd 1), command (.encrnd 2), command (.encrnd 3), command (.encrnd 4), command (.encrnd 5),
      command (.encrnd 6), command (.encrnd 7), command (.encrnd 8), command (.encrnd 9), command (.encrnd 10)]
  | .decsteps =>
    [command (.ark 10), command (.decrnd 9), command (.decrnd 8), command (.decrnd 7), command (.decrnd 6), command (.decrnd 5),
      command (.decrnd 4), command (.decrnd 3), command (.decrnd 2), command (.decrnd 1), command (.decrnd 0)]
  | .setkey k => [command .keyexp k]

/-- What the end of a run shows: dout, yout and status in the completion cycle of its last command, and the sequence of response
codes (R214). -/
structure Shown where
  dout : BusWord
  yout : Byte
  status : Byte
  codes : List RspCode
  deriving DecidableEq, Repr

/-- The response codes of a command sequence, in order (R214): STATUS.LAST_CODE after each command (R180). -/
def responseCodes : List Command → State → List RspCode
  | [], _ => []
  | c :: rest, s =>
    match transact c.word c.din s with
    | .next t => t.status.lastCode :: responseCodes rest t
    | .fault _ => []
    | .refused _ => []

/-- What a run of a command sequence shows (R214). DESIGN CHOICE: R214 leaves open what a run of no command shows; here it is what
the ports carry in the start state, with no response code (log 23). -/
def shown (cs : List Command) (s : State) : Option Shown :=
  match runCommands cs s with
  | .next t => some ⟨t.dout, t.yout, t.statusPort, responseCodes cs s⟩
  | .fault _ => none
  | .refused _ => none

end Sys2Proof.Machine
end

