-- ==== Sys2Proof/Machine/Assembler.lean ====
section
/-! DEFINITION. The assembler (R69), on the host's side: a line of text to the commands it stands for. -/

namespace Sys2Proof.Machine

/-! ### Numbers (R69) -/

/-- A decimal digit's value. -/
def decDigit (c : Char) : Option Nat := if '0'.toNat ≤ c.toNat ∧ c.toNat ≤ '9'.toNat then some (c.toNat - '0'.toNat) else none

/-- A hexadecimal digit's value, in either case. -/
def hexDigit (c : Char) : Option Nat :=
  if 'A'.toNat ≤ c.toNat ∧ c.toNat ≤ 'F'.toNat then some (c.toNat - 'A'.toNat + 10)
  else if 'a'.toNat ≤ c.toNat ∧ c.toNat ≤ 'f'.toNat then some (c.toNat - 'a'.toNat + 10)
  else decDigit c

/-- The value of digits in a base, after `acc`; none where a character is no digit. -/
def digitsFrom (digit : Char → Option Nat) (base acc : Nat) : List Char → Option Nat
  | [] => some acc
  | c :: rest =>
    match digit c with
    | some d => digitsFrom digit base (base * acc + d) rest
    | none => none

/-- A decimal number, of at least one digit. -/
def decimal (text : List Char) : Option Nat := if text = [] then none else digitsFrom decDigit 10 0 text

/-- Exactly `n` hexadecimal digits. -/
def hexOf (n : Nat) (text : List Char) : Option Nat := if text.length = n then digitsFrom hexDigit 16 0 text else none

/-- A byte operand: `0xNN` or a decimal number, at most 255. -/
def byteOperand (text : List Char) : Option Byte :=
  let value :=
    match text with
    | '0' :: 'x' :: rest => hexOf 2 rest
    | _ => decimal text
  value.bind fun n => if n ≤ 255 then some (BitVec.ofNat 8 n) else none

/-- A round index: a decimal number that fits the field R, at most 15. -/
def roundOperand (text : List Char) : Option (BitVec 4) :=
  (decimal text).bind fun n => if n ≤ 15 then some (BitVec.ofNat 4 n) else none

/-- A Block operand: 32 hex digits, byte 0 first, with or without 0x before them. -/
def blockOperand (text : List Char) : Option BusWord :=
  let digits :=
    match text with
    | '0' :: 'x' :: rest => if rest.length = 32 then rest else text
    | _ => text
  (hexOf 32 digits).map (BitVec.ofNat 128)

/-- The operand of `.word`: 0x and 8 hex digits. -/
def wordOperand (text : List Char) : Option CmdWord :=
  match text with
  | '0' :: 'x' :: rest => (hexOf 8 rest).map (BitVec.ofNat 32)
  | _ => none

/-! ### Lines (R69) -/

/-- A blank. -/
def isBlank (c : Char) : Bool := c = ' ' || c = '\t'

/-- The text with the blanks at both ends dropped. -/
def trim (text : List Char) : List Char := ((text.dropWhile isBlank).reverse.dropWhile isBlank).reverse

/-- The pieces between the commas. -/
def splitCommas : List Char → List (List Char)
  | [] => [[]]
  | c :: rest =>
    if c = ',' then [] :: splitCommas rest
    else
      match splitCommas rest with
      | piece :: pieces => (c :: piece) :: pieces
      | [] => [[c]]

/-- The operands after a mnemonic: none, or the trimmed pieces between the commas. -/
def operandTexts (text : List Char) : List (List Char) :=
  if trim text = [] then [] else (splitCommas text).map trim

/-- The command of an opcode with its operands as R69 writes them; none where one is missing, extra, or does not fit. -/
def assembleOpcode (o : Opcode) (operands : List (List Char)) : Option Command :=
  match o, operands with
  | .nop, [] => some (command .nop)
  | .ldst, [b] => (blockOperand b).map fun b => command .ldst b
  | .keyexp, [k] => (blockOperand k).map fun k => command .keyexp k
  | .keyfix, [] => some (command .keyfix)
  | .ldrk, [r] => (roundOperand r).map fun r => command (.ldrk r)
  | .xtime, [a] => (byteOperand a).map fun a => command (.xtime a)
  | .gfmul, [a, b] => (byteOperand a).bind fun a => (byteOperand b).map fun b => command (.gfmul a b)
  | .sbox, [a] => (byteOperand a).map fun a => command (.sbox a)
  | .isbox, [a] => (byteOperand a).map fun a => command (.isbox a)
  | .subb, [] => some (command .subb)
  | .isubb, [] => some (command .isubb)
  | .shrow, [] => some (command .shrow)
  | .ishrow, [] => some (command .ishrow)
  | .mixcol, [] => some (command .mixcol)
  | .imixcol, [] => some (command .imixcol)
  | .ark, [r] => (roundOperand r).map fun r => command (.ark r)
  | .encrnd, [r] => (roundOperand r).map fun r => command (.encrnd r)
  | .decrnd, [r] => (roundOperand r).map fun r => command (.decrnd r)
  | .encblk, [] => some (command .encblk)
  | .decblk, [] => some (command .decblk)
  | _, _ => none

/-- What stands at the head of a line. -/
inductive Head where
  | op (o : Opcode)
  | rawWord
  | encrypt
  | decrypt
  | encsteps
  | decsteps
  | setkey
  deriving DecidableEq, Repr

/-- The names a line may begin with (R69, R70). -/
def heads : List (List Char × Head) := [
  (['N', 'O', 'P'], .op .nop),
  (['L', 'D', 'S', 'T'], .op .ldst),
  (['K', 'E', 'Y', 'E', 'X', 'P'], .op .keyexp),
  (['K', 'E', 'Y', 'F', 'I', 'X'], .op .keyfix),
  (['L', 'D', 'R', 'K'], .op .ldrk),
  (['X', 'T', 'I', 'M', 'E'], .op .xtime),
  (['G', 'F', 'M', 'U', 'L'], .op .gfmul),
  (['S', 'B', 'O', 'X'], .op .sbox),
  (['I', 'S', 'B', 'O', 'X'], .op .isbox),
  (['S', 'U', 'B', 'B'], .op .subb),
  (['I', 'S', 'U', 'B', 'B'], .op .isubb),
  (['S', 'H', 'R', 'O', 'W'], .op .shrow),
  (['I', 'S', 'H', 'R', 'O', 'W'], .op .ishrow),
  (['M', 'I', 'X', 'C', 'O', 'L'], .op .mixcol),
  (['I', 'M', 'I', 'X', 'C', 'O', 'L'], .op .imixcol),
  (['A', 'R', 'K'], .op .ark),
  (['E', 'N', 'C', 'R', 'N', 'D'], .op .encrnd),
  (['D', 'E', 'C', 'R', 'N', 'D'], .op .decrnd),
  (['E', 'N', 'C', 'B', 'L', 'K'], .op .encblk),
  (['D', 'E', 'C', 'B', 'L', 'K'], .op .decblk),
  (['.', 'w', 'o', 'r', 'd'], .rawWord),
  (['E', 'N', 'C', 'R', 'Y', 'P', 'T'], .encrypt),
  (['D', 'E', 'C', 'R', 'Y', 'P', 'T'], .decrypt),
  (['E', 'N', 'C', 'S', 'T', 'E', 'P', 'S'], .encsteps),
  (['D', 'E', 'C', 'S', 'T', 'E', 'P', 'S'], .decsteps),
  (['S', 'E', 'T', 'K', 'E', 'Y'], .setkey)]

/-- The commands of a line's head and operands. -/
def assembleHead (h : Head) (operands : List (List Char)) : Option (List Command) :=
  match h, operands with
  | .op o, operands => (assembleOpcode o operands).map fun c => [c]
  | .rawWord, [w] => (wordOperand w).map fun w => [⟨w, 0⟩]
  | .encrypt, [b] => (blockOperand b).map fun b => (Pseudo.encrypt b).expand
  | .decrypt, [b] => (blockOperand b).map fun b => (Pseudo.decrypt b).expand
  | .encsteps, [] => some Pseudo.encsteps.expand
  | .decsteps, [] => some Pseudo.decsteps.expand
  | .setkey, [k] => (blockOperand k).map fun k => (Pseudo.setkey k).expand
  | _, _ => none

/-- One line, `MNEMONIC [operand {, operand}]`, with `;` starting a comment; an empty line is no command; none where the assembler
refuses the line (R69). -/
def assembleLine (line : List Char) : Option (List Command) :=
  let text := trim (line.takeWhile (· ≠ ';'))
  if text = [] then some []
  else
    match heads.lookup (text.takeWhile fun c => !isBlank c) with
    | some h => assembleHead h (operandTexts (text.dropWhile fun c => !isBlank c))
    | none => none

/-- A program: its lines, in order. -/
def assemble : List (List Char) → Option (List Command)
  | [] => some []
  | line :: rest => (assembleLine line).bind fun cs => (assemble rest).map fun more => cs ++ more

end Sys2Proof.Machine
end

