-- ==== Sys2Proof/Safety.lean ====
section
/-! DEFINITION. The terms the statements use: the response code a word deserves (R66), the invariant of the machine, and when two states differ only in unspecified values (R32). -/

namespace Sys2Proof

/-- The response code of a command word under the two valid bits, written from R66's list of checks on the word's own bits: the
first failing check decides. It uses neither the decoder nor any meaning. -/
def responseOf (w : CmdWord) (keyValid stValid : Bool) : RspCode :=
  let op := w.toNat / 2 ^ 24
  let a := w.toNat / 2 ^ 16 % 256
  let r := w.toNat / 2 ^ 4 % 16
  let noFields := [0x00, 0x01, 0x02, 0x03, 0x20, 0x21, 0x22, 0x23, 0x24, 0x25, 0x38, 0x39]
  let roundField := [0x04, 0x26, 0x30, 0x31]
  let byteField := [0x10, 0x12, 0x13]
  if op ∉ noFields ++ roundField ++ byteField ++ [0x11] then .errOpcode
  else if op ∈ noFields ∧ w.toNat % 2 ^ 24 ≠ 0 then .errRsv
  else if op ∈ roundField ∧ (w.toNat / 2 ^ 8 % 2 ^ 16 ≠ 0 ∨ w.toNat % 16 ≠ 0) then .errRsv
  else if op ∈ byteField ∧ w.toNat % 2 ^ 16 ≠ 0 then .errRsv
  else if op = 0x11 ∧ w.toNat % 2 ^ 8 ≠ 0 then .errRsv
  else if op ∈ [0x04, 0x26] ∧ r > 10 then .errRange
  else if op = 0x30 ∧ (r < 1 ∨ r > 10) then .errRange
  else if op = 0x31 ∧ r > 9 then .errRange
  else if op = 0x11 ∧ a / 16 ≠ 0 then .errRange
  else if op ∈ [0x04, 0x26, 0x30, 0x31, 0x38, 0x39] ∧ keyValid = false then .errNoKey
  else if op ∈ [0x20, 0x21, 0x22, 0x23, 0x24, 0x25, 0x26, 0x30, 0x31, 0x38, 0x39] ∧ stValid = false then .errNoState
  else .ok

namespace Machine

/-- What holds between any two edges of a run. -/
structure State.Inv (s : State) : Prop where
  /-- KEY_VALID says that RK holds an expanded key (R28). -/
  keyed : s.status.keyValid = true → ∃ key : BusWord, s.rk = expandKey s.rom (bytes key)
  /-- An error that LAST_CODE reports is recorded in the sticky ERR (R185, R187). -/
  recorded : s.status.lastCode ≠ .ok → s.status.err = true
  /-- In the completion cycle rsp_code and STATUS.LAST_CODE are one code (R180, R204). -/
  reported : ∀ code, s.phase = .done code → s.status.lastCode = code
  /-- A command in flight has not used up LAT_MAX (R212). -/
  bounded : ∀ n, s.phase = .busy n → n < Config.latMax

/-- Two states that differ in nothing but values the spec leaves unspecified: the contents of RK while KEY_VALID = 0, of ST
while ST_VALID = 0 and of Y while Y_VALID = 0 (R32). -/
structure State.AgreeOnValid (s t : State) : Prop where
  rom : s.rom = t.rom
  status : s.status = t.status
  rk : s.status.keyValid = true → s.rk = t.rk
  st : s.status.stValid = true → s.st = t.st
  y : s.status.yValid = true → s.y = t.y
  phase : s.phase = t.phase
  cmdLatch : s.cmdLatch = t.cmdLatch
  dinLatch : s.dinLatch = t.dinLatch
  pins : s.pins = t.pins
  draws : s.draws = t.draws

/-- `FieldMultiply_full(a, b)`: the GF(2^8) product for all 8 bits of a, by eight doublings; it is no operation of the core and
only states what an inverse in GF(2^8) is (R85). -/
def fieldMultiplyFull (a b : Byte) : Byte :=
  let d4 := xtime (xtime (xtime (xtime b)))
  fieldMultiply a b ^^^ fieldMultiply (a >>> 4) d4

/-- `affine(v)`: bit i is v[i], v[i+4], v[i+5], v[i+6], v[i+7] (indices mod 8) and bit i of 0x63, all XORed (R85). -/
def affine (v : Byte) : Byte :=
  v ^^^ v.rotateRight 4 ^^^ v.rotateRight 5 ^^^ v.rotateRight 6 ^^^ v.rotateRight 7 ^^^ 0x63

/-- Byte i of a 128-bit bus value, by its bits [127-8i : 120-8i] (R42). -/
def busByte (v : BusWord) (i : Nat) : Byte := v.extractLsb' (120 - 8 * i) 8

/-- What R103 says of the round keys of a key, cell by cell: round key 0 is the key in column-major form, and each later cell is the
previous key's cell XOR the cell of the column before it, where column 0 takes the previous key's column 3 rotated, substituted
and, in row 0, XORed with the round constant (R101, R102). -/
structure IsKeySchedule (rom : Rom) (key : BusWord) (rk : RoundKeys) : Prop where
  first : ∀ r c : Fin 4, (rk.get 0).get r c = busByte key (r.val + 4 * c.val)
  column0 : ∀ n : Fin 10, ∀ r : Fin 4,
    (rk.get n.succ).get r 0 =
      (rk.get n.castSucc).get r 0 ^^^
        (rom.sboxAt ((rk.get n.castSucc).get (r + 1) 3) ^^^ if r = 0 then rom.rconAt (n.val + 1) else 0)
  column : ∀ n : Fin 10, ∀ r : Fin 4, ∀ j : Fin 3,
    (rk.get n.succ).get r j.succ = (rk.get n.castSucc).get r j.succ ^^^ (rk.get n.succ).get r j.castSucc

end Machine

end Sys2Proof
end

