-- ==== Sys2Proof/Certificates/Slice0/Obligations.lean ====
section
/-! DEFINITION. The statements for the provers. A state written `{ s with … }` says the frame: every field not named is as before. -/

open Sys2Proof Sys2Proof.Machine

/-! ### Encoding -/

/-- R65, R69: decoding an encoded command gives it back, every operand at every value its field admits. -/
def Obligations.DecodeOfEncodedCommand : Prop :=
  ∀ i : Instr, decode (encode i) = .command i

/-- R67: a word that is accepted is the one spelling of its command; no bit of it is dropped. -/
def Obligations.EncodeOfDecodedWord : Prop :=
  ∀ (w : CmdWord) (i : Instr), decode w = .command i → encode i = w

/-- R64, R65: a word is accepted as a command of an opcode exactly when `(w AND mask) = OP << 24`, with R65's masks. -/
def Obligations.LegalSpellingIsMaskedMatch : Prop :=
  ∀ row ∈ ([
    (Opcode.nop, 0x00, 0xFFFFFFFF), (.ldst, 0x01, 0xFFFFFFFF), (.keyexp, 0x02, 0xFFFFFFFF), (.keyfix, 0x03, 0xFFFFFFFF),
    (.ldrk, 0x04, 0xFFFFFF0F), (.xtime, 0x10, 0xFF00FFFF), (.gfmul, 0x11, 0xFF0000FF), (.sbox, 0x12, 0xFF00FFFF),
    (.isbox, 0x13, 0xFF00FFFF), (.subb, 0x20, 0xFFFFFFFF), (.isubb, 0x21, 0xFFFFFFFF), (.shrow, 0x22, 0xFFFFFFFF),
    (.ishrow, 0x23, 0xFFFFFFFF), (.mixcol, 0x24, 0xFFFFFFFF), (.imixcol, 0x25, 0xFFFFFFFF), (.ark, 0x26, 0xFFFFFF0F),
    (.encrnd, 0x30, 0xFFFFFF0F), (.decrnd, 0x31, 0xFFFFFF0F), (.encblk, 0x38, 0xFFFFFFFF), (.decblk, 0x39, 0xFFFFFFFF)] :
      List (Opcode × Nat × Nat)),
    ∀ w : CmdWord, (∃ i, decode w = .command i ∧ i.opcode = row.1) ↔
      w &&& BitVec.ofNat 32 row.2.2 = BitVec.ofNat 32 (row.2.1 * 2 ^ 24)

/-- R69: a few words of every family, written out from the encoding column, decode to what they stand for. -/
def Obligations.WordsOfEveryFamilyDecode : Prop :=
  decode 0x00000000 = .command .nop ∧ decode 0x01000000 = .command .ldst ∧
  decode 0x02000000 = .command .keyexp ∧ decode 0x03000000 = .command .keyfix ∧ decode 0x040000A0 = .command (.ldrk 10) ∧
  decode 0x10570000 = .command (.xtime 0x57) ∧ decode 0x11035700 = .command (.gfmul 0x03 0x57) ∧
  decode 0x12530000 = .command (.sbox 0x53) ∧ decode 0x13ED0000 = .command (.isbox 0xED) ∧
  decode 0x20000000 = .command .subb ∧ decode 0x21000000 = .command .isubb ∧ decode 0x22000000 = .command .shrow ∧
  decode 0x23000000 = .command .ishrow ∧ decode 0x24000000 = .command .mixcol ∧ decode 0x25000000 = .command .imixcol ∧
  decode 0x26000050 = .command (.ark 5) ∧ decode 0x30000010 = .command (.encrnd 1) ∧
  decode 0x31000090 = .command (.decrnd 9) ∧ decode 0x38000000 = .command .encblk ∧ decode 0x39000000 = .command .decblk

/-- R67: the 236 opcode values outside the map are illegal; every word with one of them raises ERR_OPCODE and changes nothing but
STATUS; every other word is the legal spelling of one command or is answered by ERR_RSV. -/
def Obligations.IllegalOpcodesAreRejected : Prop :=
  let illegal : Nat → Bool := fun op =>
    (0x05 ≤ op && op ≤ 0x0F) || (0x14 ≤ op && op ≤ 0x1F) || (0x27 ≤ op && op ≤ 0x2F) || (0x32 ≤ op && op ≤ 0x37) ||
      (0x3A ≤ op && op ≤ 0xFF)
  ((List.range 256).filter illegal).length = 236 ∧
  ∀ (w : CmdWord) (d : BusWord) (s : State),
    (illegal (w.toNat / 2 ^ 24) = true →
      transact w d s = .next { s with
        cmdLatch := w, dinLatch := d, status := { s.status with err := true, lastCode := .errOpcode },
        phase := .done .errOpcode }) ∧
    (illegal (w.toNat / 2 ^ 24) = false → (∃ i, decode w = .command i ∧ encode i = w) ∨ decode w = .rejected .errRsv)

/-- R68: a non-zero bit in a must-be-zero field (Z always; A, B, R where R64 marks them 0) raises ERR_RSV. -/
def Obligations.ReservedFieldsAreRejected : Prop :=
  ∀ (w : CmdWord) (d : BusWord) (s : State) (o : Opcode), w.toNat / 2 ^ 24 = o.byte.toNat →
    (w.toNat % 16 ≠ 0 ∨
      (w.toNat / 2 ^ 16 % 256 ≠ 0 ∧ o ∉ [Opcode.xtime, .gfmul, .sbox, .isbox]) ∨
      (w.toNat / 2 ^ 8 % 256 ≠ 0 ∧ o ≠ .gfmul) ∨
      (w.toNat / 2 ^ 4 % 16 ≠ 0 ∧ o ∉ [Opcode.ldrk, .ark, .encrnd, .decrnd])) →
    transact w d s = .next { s with
      cmdLatch := w, dinLatch := d, status := { s.status with err := true, lastCode := .errRsv }, phase := .done .errRsv }

/-! ### Responses -/

/-- R183: whatever the word, din and state, the command is answered by one code, the first that applies in R66's order. -/
def Obligations.ResponseFollowsCheckOrder : Prop :=
  ∀ (w : CmdWord) (d : BusWord) (s : State), ∃ t, transact w d s = .next t ∧
    t.phase = .done (responseOf w s.status.keyValid s.status.stValid) ∧
    t.status.lastCode = responseOf w s.status.keyValid s.status.stValid

/-- R185: an error sets ERR and LAST_CODE and the response code, and changes nothing else. -/
def Obligations.ErrorsChangeOnlyStatus : Prop :=
  ∀ (w : CmdWord) (d : BusWord) (s : State) (code : RspCode),
    responseOf w s.status.keyValid s.status.stValid = code → code ≠ .ok →
    transact w d s = .next { s with
      cmdLatch := w, dinLatch := d, status := { s.status with err := true, lastCode := code }, phase := .done code }

/-- R186: a command that completes without error does what its meaning says, and leaves LAST_CODE = OK, rsp_code = OK and ERR kept. -/
def Obligations.SuccessRecordsOkAndKeepsErr : Prop :=
  ∀ (w : CmdWord) (d : BusWord) (s : State), responseOf w s.status.keyValid s.status.stValid = .ok →
    ∃ i t, decode w = .command i ∧
      exec i { s with cmdLatch := w, dinLatch := d, phase := .busy 0 } = .next t ∧ transact w d s = .next t ∧
      t.status.lastCode = .ok ∧ t.phase = .done .ok ∧ t.status.err = s.status.err

/-- R65, R66: a command whose operand is out of range is answered by ERR_RANGE, whatever is loaded. -/
def Obligations.OutOfRangeOperandsAreRejected : Prop :=
  ∀ (i : Instr) (s : State), i.wellFormed = false →
    exec i s = .next { s with
      status := { s.status with err := true, lastCode := .errRange }, phase := .done .errRange }

/-- R30: a command that reads RK wants KEY_VALID, and one that reads ST wants ST_VALID, in that order. -/
def Obligations.ReadsOfUnloadedStateAreRejected : Prop :=
  ∀ (i : Instr) (s : State), i.wellFormed = true →
    (i.opcode ∈ [Opcode.ldrk, .ark, .encrnd, .decrnd, .encblk, .decblk] → s.status.keyValid = false →
      exec i s = .next { s with
        status := { s.status with err := true, lastCode := .errNoKey }, phase := .done .errNoKey }) ∧
    (i.opcode ∈ [Opcode.subb, .isubb, .shrow, .ishrow, .mixcol, .imixcol, .ark, .encrnd, .decrnd, .encblk, .decblk] →
      s.status.stValid = false →
      (i.opcode ∈ [Opcode.ark, .encrnd, .decrnd, .encblk, .decblk] → s.status.keyValid = true) →
      exec i s = .next { s with
        status := { s.status with err := true, lastCode := .errNoState }, phase := .done .errNoState })

/-- R180, R213: the step is total: it never stops in a fault or a refusal. -/
def Obligations.EveryStepAnswersNext : Prop :=
  ∀ s : State, ∃ t, step s = .next t

/-! ### Reset, handshake and ports -/

/-- R32, R200, R201: what reset leaves where the spec gives a value. -/
def Obligations.ResetStateAsTheSpecGivesIt : Prop :=
  State.reset.status.word = 0x00 ∧ State.reset.phase = .idle ∧ State.reset.cmdReady = true ∧ State.reset.rspValid = false ∧
  State.reset.rom.sbox = sboxTable ∧ State.reset.rom.invSbox = invSboxTable ∧
  State.reset.rom.rcon = [0x01, 0x02, 0x04, 0x08, 0x10, 0x20, 0x40, 0x80, 0x1B, 0x36] ∧
  State.reset.rom.fixedKey = 0x080104030409020709090A0D010D0E0F

/-- R200, R208: rst = 1 at an edge clears STATUS and abandons whatever is in flight: the outcome is the same whichever command and
din were sampled, so none of its writes is committed. Three clauses are the model's own reading: that the core then stands in reset
with cmd_ready = 0 even where rst is already low in that cycle (log 9), that rsp_valid is 0 there, and that reset wins at the very
edge that would complete the command (log 11). -/
def Obligations.ResetEdgeClearsStatusAndAbandons : Prop :=
  ∀ s : State, s.nextEdge.rst = true → ∃ t, step s = .next t ∧
    t.status.word = 0x00 ∧ t.phase = .inReset ∧ t.cmdReady = false ∧ t.rspValid = false ∧ t.rom = s.rom ∧
    t.pins = s.pins.tail ∧
    ∀ (w : CmdWord) (d : BusWord) (p : Phase),
      step { s with cmdLatch := w, dinLatch := d, phase := p } = .next { t with cmdLatch := w, dinLatch := d }

/-- R201, with the model's reading of log 9: at the first edge with rst = 0 after a reset edge the core goes idle, takes no offer
and keeps all else. -/
def Obligations.IdleAfterResetReleased : Prop :=
  ∀ s : State, s.phase = .inReset → s.nextEdge.rst = false →
    step s = .next { s with phase := .idle, pins := s.pins.tail, draws := s.draws + 1 }

/-- R202: a command is accepted at an edge with cmd_valid = 1, cmd_ready = 1 and rst = 0, which samples cmd and din; with no offer
the core is idle; and with cmd_ready = 0 what is offered has no effect. -/
def Obligations.AcceptanceSamplesCmdAndDin : Prop :=
  (∀ s : State, s.cmdReady = true → s.nextEdge.cmdValid = true →
    step s = .next { s with
      cmdLatch := s.nextEdge.cmd, dinLatch := s.nextEdge.din, phase := .busy 0, pins := s.pins.tail, draws := s.draws + 1 }) ∧
  (∀ s : State, s.cmdReady = true → s.nextEdge.cmdValid = false →
    step s = .next { s with phase := .idle, pins := s.pins.tail, draws := s.draws + 1 }) ∧
  (∀ (s : State) (e : Edge) (rest : List Edge), s.pins = e :: rest → s.cmdReady = false →
    ∀ (v : Bool) (w : CmdWord) (d : BusWord),
      step { s with pins := { e with cmdValid := v, cmd := w, din := d } :: rest } = step s)

/-- R203, R206, R212: at an edge where a command in flight does not complete, nothing of it is committed and cmd_ready stays 0; at
the edge where LAT_MAX is used up it completes, whatever the edge says. -/
def Obligations.CommandInFlightCommitsNothing : Prop :=
  ∀ (s : State) (n : Nat), s.phase = .busy n → s.nextEdge.rst = false → s.nextEdge.finish = false →
    s.cmdReady = false ∧
    ∃ t, step s = .next t ∧
      if n + 1 < Config.latMax then
        t = { s with phase := .busy (n + 1), pins := s.pins.tail, draws := s.draws + 1 } ∧
          (t.cmdReady = false ∧ t.rspValid = false)
      else ∃ code, t.phase = .done code

/-- R204, R206: when the sampled command i completes at an edge, the step is exec of i on the state with the edge consumed. -/
def Obligations.StepRunsTheSampledCommand : Prop :=
  ∀ (s : State) (n : Nat) (i : Instr), s.phase = .busy n → s.nextEdge.rst = false →
    (s.nextEdge.finish = true ∨ Config.latMax ≤ n + 1) → decode s.cmdLatch = .command i →
    step s = exec i { s with pins := s.pins.tail, draws := s.draws + 1 }

/-- R204, R185: and when the sampled word is no command's legal spelling, the step ends it with the decoder's code. -/
def Obligations.StepAnswersTheSampledBadWord : Prop :=
  ∀ (s : State) (n : Nat) (code : RspCode), s.phase = .busy n → s.nextEdge.rst = false →
    (s.nextEdge.finish = true ∨ Config.latMax ≤ n + 1) → decode s.cmdLatch = .rejected code →
    step s = .next { s with
      pins := s.pins.tail, draws := s.draws + 1, status := { s.status with err := true, lastCode := code },
      phase := .done code }

/-- Log 13: the step after withFetchWord runs the word it places. -/
def Obligations.FetchWordRunsItsCommand : Prop :=
  ∀ (s : State) (w : Nat) (i : Instr), decode (BitVec.ofNat 32 w) = .command i →
    step (s.withFetchWord 32 w) =
      exec i { s with cmdLatch := BitVec.ofNat 32 w, phase := .busy 0, draws := s.draws + 1 }

/-- R204: in the completion cycle rsp_valid = 1, rsp_code is the command's code, cmd_ready = 1 and the outputs show the committed
state (rst is low in it, R201); and the pulse lasts that one cycle. -/
def Obligations.CompletionCycleShowsTheResponse : Prop :=
  ∀ (s : State) (n : Nat), s.phase = .busy n → s.nextEdge.rst = false →
    (s.nextEdge.finish = true ∨ Config.latMax ≤ n + 1) →
    ∃ t, step s = .next t ∧
      (t.nextEdge.rst = false →
        t.rspValid = true ∧ t.cmdReady = true ∧
        t.rspCode = (responseOf s.cmdLatch s.status.keyValid s.status.stValid).bits ∧
        t.dout = bus (flat t.st) ∧ t.yout = t.y ∧ t.statusPort = t.status.word) ∧
      ∀ u, step t = .next u → u.rspValid = false

/-- R42, R43, R26, R27: while no command is in flight dout carries cell [r][c] of ST on the bits of byte 4c + r, and yout is Y. For
the cycles in reset that is the model's choice (log 22). -/
def Obligations.OutputsCarryStColumnMajor : Prop :=
  ∀ s : State, (∀ n, s.phase ≠ .busy n) →
    (∀ r c : Fin 4, busByte s.dout (4 * c.val + r.val) = s.st.get r c) ∧ s.yout = s.y

/-- R28, R181: the places of STATUS's fields on the status port, and the codes' values. That the port carries STATUS in the cycles in
reset is the model's choice (log 22). -/
def Obligations.StatusPortFields : Prop :=
  ∀ s : State, (∀ n, s.phase ≠ .busy n) →
    s.statusPort.getLsbD 0 = s.status.keyValid ∧ s.statusPort.getLsbD 1 = s.status.stValid ∧
    s.statusPort.getLsbD 2 = s.status.yValid ∧ s.statusPort.getLsbD 3 = s.status.err ∧
    s.statusPort.extractLsb' 4 4 =
      match s.status.lastCode with
      | .ok => 0x0
      | .errOpcode => 0x1
      | .errRsv => 0x2
      | .errRange => 0x3
      | .errNoKey => 0x4
      | .errNoState => 0x5

/-- R212, in the form of log 7: a command in flight completes within what is left of LAT_MAX edges, with its own response code, if
no reset comes in them. -/
def Obligations.CommandsCompleteWithinLatMax : Prop :=
  ∀ (s : State) (n : Nat), s.phase = .busy n → n < Config.latMax →
    (∀ e ∈ s.pins.take (Config.latMax - n), e.rst = false) →
    ∃ k t, 1 ≤ k ∧ k ≤ Config.latMax - n ∧ Host.Core.run Sys2Proof.core k s = .next t ∧
      t.phase = .done (responseOf s.cmdLatch s.status.keyValid s.status.stValid)

/-- R213: the edges of one command (its acceptance, any number of waits short of LAT_MAX, its completion) come to the same state as the
one atomic transaction, but for the schedule and the draw counter. -/
def Obligations.CycleRunIsOneTransaction : Prop :=
  ∀ (s : State) (offer last : Edge) (waits rest : List Edge),
    s.phase.ready = true → s.pins = offer :: (waits ++ last :: rest) →
    offer.rst = false → offer.cmdValid = true → (∀ e ∈ waits, e.rst = false ∧ e.finish = false) →
    waits.length < Config.latMax → last.rst = false → (last.finish = true ∨ waits.length + 1 = Config.latMax) →
    ∃ t, transact offer.cmd offer.din s = .next t ∧
      Host.Core.run Sys2Proof.core (waits.length + 2) s =
        .next { t with pins := rest, draws := s.draws + (waits.length + 2) }

/-! ### Whole-machine rules -/

/-- The invariant holds at reset. -/
def Obligations.InvariantHoldsAtReset : Prop := State.reset.Inv

/-- Every edge keeps the invariant, from every state that meets it. -/
def Obligations.StepKeepsTheInvariant : Prop :=
  ∀ s t : State, s.Inv → step s = .next t → t.Inv

/-- R28, R187: without reset no edge clears KEY_VALID, ST_VALID, Y_VALID or ERR. -/
def Obligations.OnlyResetClearsStatusBits : Prop :=
  ∀ s t : State, step s = .next t → s.nextEdge.rst = false →
    (s.status.keyValid = true → t.status.keyValid = true) ∧ (s.status.stValid = true → t.status.stValid = true) ∧
    (s.status.yValid = true → t.status.yValid = true) ∧ (s.status.err = true → t.status.err = true)

/-- R32: no command's result depends on the values that reset leaves unspecified. -/
def Obligations.UnspecifiedValuesNeverMatter : Prop :=
  ∀ s t s' t' : State, s.AgreeOnValid t → step s = .next s' → step t = .next t' → s'.AgreeOnValid t'

/-- R20, R25, R26, R27: which commands write RK, ST and Y; no command writes a ROM. -/
def Obligations.OnlyTheListedCommandsWrite : Prop :=
  ∀ (i : Instr) (s t : State), exec i s = .next t →
    t.rom = s.rom ∧
    (t.rk ≠ s.rk → i.opcode ∈ [Opcode.keyexp, .keyfix]) ∧
    (t.st ≠ s.st → i.opcode ∈ [Opcode.ldst, .ldrk, .subb, .isubb, .shrow, .ishrow, .mixcol, .imixcol, .ark, .encrnd, .decrnd,
      .encblk, .decblk]) ∧
    (t.y ≠ s.y → i.opcode ∈ [Opcode.xtime, .gfmul, .sbox, .isbox])

/-- R63: only LDST and KEYEXP read din, and din never causes an error. -/
def Obligations.OnlyLdstAndKeyexpReadDin : Prop :=
  ∀ (w : CmdWord) (d d' : BusWord) (s t : State), transact w d s = .next t →
    (w.toNat / 2 ^ 24 ≠ 0x01 → w.toNat / 2 ^ 24 ≠ 0x02 → transact w d' s = .next { t with dinLatch := d' }) ∧
    (∀ t', transact w d' s = .next t' → t'.status.lastCode = t.status.lastCode)

/-- R187: an error sets ERR and no command clears it; a command issued after an error behaves as it would have without it, but for
STATUS.ERR = 1. -/
def Obligations.EarlierErrorsLeaveOnlyErr : Prop :=
  ∀ (w : CmdWord) (d : BusWord) (s t : State) (code : RspCode), transact w d s = .next t →
    (t.status.lastCode ≠ .ok → t.status.err = true) ∧ (s.status.err = true → t.status.err = true) ∧
    transact w d { s with status := { s.status with err := true, lastCode := code } } =
      .next { t with status := { t.status with err := true } }

/-- R40, R41: every read at an index of R40's range returns a whole entry. That a read outside the range gives no entry is the
model's choice (log 16): R41 defines MemRead inside the ranges alone. -/
def Obligations.StorageReadsAreWholeEntries : Prop :=
  ∀ (s : State) (i : Nat),
    s.memRead .sbox i = (if i ≤ 0xFF then some [s.rom.sboxAt (BitVec.ofNat 8 i)] else none) ∧
    s.memRead .invSbox i = (if i ≤ 0xFF then some [s.rom.invSboxAt (BitVec.ofNat 8 i)] else none) ∧
    s.memRead .rcon i = (if 1 ≤ i ∧ i ≤ 10 then some [s.rom.rconAt i] else none) ∧
    (∀ k : Fin 11, ∃ b, s.memRead .rk k.val = some b ∧ b.length = 16 ∧
      ∀ r c : Fin 4, b[4 * c.val + r.val]? = some ((s.rk.get k).get r c)) ∧
    (10 < i → s.memRead .rk i = none)

/-! ### Control and keys -/

/-- R170: NOP changes LAST_CODE alone. -/
def Obligations.NopChangesOnlyLastCode : Prop :=
  ∀ s : State, exec .nop s = .next { s with status := { s.status with lastCode := .ok }, phase := .done .ok }

/-- R171, R43: LDST loads din column-major, sets ST_VALID, keeps all else, and dout then shows din. -/
def Obligations.LdstLoadsDinColumnMajor : Prop :=
  ∀ s : State, ∃ t, exec .ldst s = .next t ∧
    (∀ r c : Fin 4, t.st.get r c = busByte s.dinLatch (4 * c.val + r.val)) ∧ t.dout = s.dinLatch ∧
    t = { s with st := t.st, status := { s.status with stValid := true, lastCode := .ok }, phase := .done .ok }

/-- R103, R104: KEYEXP leaves the 11 round keys of din in RK, sets KEY_VALID and keeps all else. -/
def Obligations.KeyexpExpandsDin : Prop :=
  ∀ s : State, ∃ t, exec .keyexp s = .next t ∧ IsKeySchedule s.rom s.dinLatch t.rk ∧
    t = { s with rk := t.rk, status := { s.status with keyValid := true, lastCode := .ok }, phase := .done .ok }

/-- R24, R105: KEYFIX does the same for FIXED_KEY, whatever din is; it is KEYEXP of that key. -/
def Obligations.KeyfixExpandsTheFixedKey : Prop :=
  ∀ s : State, ∃ t, exec .keyfix s = .next t ∧
    IsKeySchedule s.rom 0x080104030409020709090A0D010D0E0F t.rk ∧
    t = { s with rk := t.rk, status := { s.status with keyValid := true, lastCode := .ok }, phase := .done .ok } ∧
    exec .keyexp { s with dinLatch := 0x080104030409020709090A0D010D0E0F } =
      .next { t with dinLatch := 0x080104030409020709090A0D010D0E0F }

/-- R106: LDRK r copies round key r into ST. -/
def Obligations.LdrkCopiesARoundKey : Prop :=
  ∀ (r : BitVec 4) (k : Fin 11) (s : State), r.toNat = k.val → s.status.keyValid = true →
    exec (.ldrk r) s = .next { s with
      st := s.rk.get k, status := { s.status with stValid := true, lastCode := .ok }, phase := .done .ok }

/-- R107 and R106's first corner case: after KEYEXP of a key, LDRK 0 shows the key itself on dout, from any state. -/
def Obligations.LdrkZeroShowsTheKey : Prop :=
  ∀ (key d : BusWord) (s : State), ∃ t u, transact 0x02000000 key s = .next t ∧ transact 0x04000000 d t = .next u ∧
    u.dout = key

/-- R100: the ten round constants, each the double of the one before. -/
def Obligations.RoundConstantsAreDoublings : Prop :=
  ∀ rom : Rom, rom.rcon.length = 10 ∧ rom.rconAt 1 = 0x01 ∧ (∀ j, 1 ≤ j → j < 10 → rom.rconAt (j + 1) = xtime (rom.rconAt j)) ∧
    (List.range 10).map (fun j => rom.rconAt (j + 1)) = [0x01, 0x02, 0x04, 0x08, 0x10, 0x20, 0x40, 0x80, 0x1B, 0x36]

/-! ### Field and tables -/

/-- R80, R90: XTIME shifts left by one within 8 bits and XORs 0x1B where bit 7 was 1, into Y. -/
def Obligations.XtimeDoublesIntoY : Prop :=
  ∀ (a : Byte) (s : State), exec (.xtime a) s = .next { s with
    y := (a <<< 1) ^^^ (if a.getLsbD 7 then 0x1B else 0x00), status := { s.status with yValid := true, lastCode := .ok },
    phase := .done .ok }

/-- R81, R91: FieldMultiply is the XOR of the doublings of b that bits 0 to 3 of a select, and GFMUL, for a[7:4] = 0, leaves it
in Y. -/
def Obligations.GfmulSumsSelectedDoublings : Prop :=
  ∀ (a b : Byte) (d : Nat → Byte), d 0 = b →
    (∀ k, d (k + 1) = (d k <<< 1) ^^^ (if (d k).getLsbD 7 then 0x1B else 0x00)) →
    fieldMultiply a b =
      (if a.getLsbD 0 then d 0 else 0) ^^^ (if a.getLsbD 1 then d 1 else 0) ^^^
        (if a.getLsbD 2 then d 2 else 0) ^^^ (if a.getLsbD 3 then d 3 else 0) ∧
    ∀ s : State, a.toNat < 16 → exec (.gfmul a b) s = .next { s with
      y := (if a.getLsbD 0 then d 0 else 0) ^^^ (if a.getLsbD 1 then d 1 else 0) ^^^
        (if a.getLsbD 2 then d 2 else 0) ^^^ (if a.getLsbD 3 then d 3 else 0)
      status := { s.status with yValid := true, lastCode := .ok }, phase := .done .ok }

/-- R92, R93: SBOX and ISBOX leave the table's entry in Y. -/
def Obligations.SboxAndIsboxLookUp : Prop :=
  ∀ (a : Byte) (s : State),
    exec (.sbox a) s = .next { s with
      y := (s.rom.sbox.getD (a.toNat / 16) []).getD (a.toNat % 16) 0
      status := { s.status with yValid := true, lastCode := .ok }, phase := .done .ok } ∧
    exec (.isbox a) s = .next { s with
      y := (s.rom.invSbox.getD (a.toNat / 16) []).getD (a.toNat % 16) 0
      status := { s.status with yValid := true, lastCode := .ok }, phase := .done .ok }

/-- R82: for a[7:4] = 0, FieldMultiply(a, b) is the product of a and b as polynomials over GF(2), modulo x^8+x^4+x^3+x+1; bit i of
a byte is the coefficient of x^i (R8). -/
def Obligations.FieldMultiplyIsTheFieldProduct : Prop :=
  let poly : Byte → Polynomial (ZMod 2) := fun v => ∑ i ∈ Finset.range 8, if v.getLsbD i then Polynomial.X ^ i else 0
  ∀ a b : Byte, a.extractLsb' 4 4 = 0 →
    ((Polynomial.X ^ 8 + Polynomial.X ^ 4 + Polynomial.X ^ 3 + Polynomial.X + 1 : Polynomial (ZMod 2)) ∣
      poly a * poly b - poly (fieldMultiply a b))

/-- R84: the five laws of FieldMultiply. -/
def Obligations.FieldMultiplyLaws : Prop :=
  ∀ a c x y : Byte, a.extractLsb' 4 4 = 0 → c.extractLsb' 4 4 = 0 →
    fieldMultiply 1 x = x ∧ fieldMultiply 0 x = 0 ∧ fieldMultiply 2 x = xtime x ∧
    fieldMultiply a (x ^^^ y) = fieldMultiply a x ^^^ fieldMultiply a y ∧
    fieldMultiply (a ^^^ c) x = fieldMultiply a x ^^^ fieldMultiply c x ∧ fieldMultiply 3 x = xtime x ^^^ x

/-- R88: the two tables are inverse permutations, and SBOX has no fixed point and no point it maps to its complement. -/
def Obligations.TablesAreInversePermutations : Prop :=
  ∀ (rom : Rom) (v : Byte), rom.invSboxAt (rom.sboxAt v) = v ∧ rom.sboxAt (rom.invSboxAt v) = v ∧
    rom.sboxAt v ≠ v ∧ rom.sboxAt v ≠ v ^^^ 0xFF

/-- R85: SBOX[x] is the affine transform of the inverse of x in GF(2^8), 0 taken for the inverse of 0. -/
def Obligations.SboxIsInverseThenAffine : Prop :=
  ∀ (rom : Rom) (x : Byte), ∃ y : Byte, (x = 0 → y = 0) ∧ (x ≠ 0 → fieldMultiplyFull x y = 1) ∧ rom.sboxAt x = affine y

/-! ### Round primitives -/

/-- R120, R130, R131: SUBB and ISUBB replace every cell of ST by its table's entry, and change nothing else but LAST_CODE. -/
def Obligations.SubbAndIsubbSubstituteEveryCell : Prop :=
  ∀ s : State, s.status.stValid = true →
    (∃ t, exec .subb s = .next t ∧ (∀ r c, t.st.get r c = s.rom.sboxAt (s.st.get r c)) ∧
      t = { s with st := t.st, status := { s.status with lastCode := .ok }, phase := .done .ok }) ∧
    (∃ t, exec .isubb s = .next t ∧ (∀ r c, t.st.get r c = s.rom.invSboxAt (s.st.get r c)) ∧
      t = { s with st := t.st, status := { s.status with lastCode := .ok }, phase := .done .ok })

/-- R121, R132, R133: SHROW rotates row r left by r and ISHROW right by r: indexes (c + r) mod 4 and (c + 4 - r) mod 4. -/
def Obligations.ShrowAndIshrowRotateRows : Prop :=
  ∀ s : State, s.status.stValid = true →
    (∃ t, exec .shrow s = .next t ∧
      (∀ r c : Fin 4, t.st.get r c = s.st.get r ⟨(c.val + r.val) % 4, Nat.mod_lt _ (by decide)⟩) ∧
      t = { s with st := t.st, status := { s.status with lastCode := .ok }, phase := .done .ok }) ∧
    (∃ t, exec .ishrow s = .next t ∧
      (∀ r c : Fin 4, t.st.get r c = s.st.get r ⟨(c.val + 4 - r.val) % 4, Nat.mod_lt _ (by decide)⟩) ∧
      t = { s with st := t.st, status := { s.status with lastCode := .ok }, phase := .done .ok })

/-- R122, R123, R134, R135: MIXCOL and IMIXCOL multiply each column by the matrix of coefficients 2, 3, 1, 1 and 14, 11, 13, 9, each
row rotated by its number. -/
def Obligations.MixcolAndImixcolMultiplyColumns : Prop :=
  ∀ s : State, s.status.stValid = true →
    (∃ t, exec .mixcol s = .next t ∧
      (∀ r c : Fin 4, t.st.get r c =
        fieldMultiply 2 (s.st.get r c) ^^^ fieldMultiply 3 (s.st.get (r + 1) c) ^^^
          fieldMultiply 1 (s.st.get (r + 2) c) ^^^ fieldMultiply 1 (s.st.get (r + 3) c)) ∧
      t = { s with st := t.st, status := { s.status with lastCode := .ok }, phase := .done .ok }) ∧
    (∃ t, exec .imixcol s = .next t ∧
      (∀ r c : Fin 4, t.st.get r c =
        fieldMultiply 14 (s.st.get r c) ^^^ fieldMultiply 11 (s.st.get (r + 1) c) ^^^
          fieldMultiply 13 (s.st.get (r + 2) c) ^^^ fieldMultiply 9 (s.st.get (r + 3) c)) ∧
      t = { s with st := t.st, status := { s.status with lastCode := .ok }, phase := .done .ok })

/-- R124, R136: ARK r XORs every cell of ST with the cell of round key r, and a second ARK r restores ST. -/
def Obligations.ArkAddsARoundKey : Prop :=
  ∀ (r : BitVec 4) (k : Fin 11) (s : State), r.toNat = k.val → s.status.keyValid = true → s.status.stValid = true →
    ∃ t, exec (.ark r) s = .next t ∧ (∀ r c, t.st.get r c = s.st.get r c ^^^ (s.rk.get k).get r c) ∧
      t = { s with st := t.st, status := { s.status with lastCode := .ok }, phase := .done .ok } ∧
      exec (.ark r) t = .next { t with st := s.st }

/-- R125: the inverse primitives undo the forward ones, both ways round, and SubBytes commutes with ShiftRows. -/
def Obligations.InversePrimitivesUndoForwardOnes : Prop :=
  ∀ (rom : Rom) (m k : Mat),
    invSubBytes rom (subBytes rom m) = m ∧ subBytes rom (invSubBytes rom m) = m ∧
    invShiftRows (shiftRows m) = m ∧ shiftRows (invShiftRows m) = m ∧
    invMixColumns (mixColumns m) = m ∧ mixColumns (invMixColumns m) = m ∧
    addRoundKey (addRoundKey m k) k = m ∧ subBytes rom (shiftRows m) = shiftRows (subBytes rom m)

/-! ### Rounds and pipelines -/

/-- R152, R154: ENCRND r, for r in 1..10, is SubBytes, ShiftRows, MixColumns but in round 10, AddRoundKey of RK[r]. -/
def Obligations.EncrndRunsOneRound : Prop :=
  ∀ (r : BitVec 4) (k : Fin 11) (s : State), r.toNat = k.val → 1 ≤ k.val →
    s.status.keyValid = true → s.status.stValid = true →
    exec (.encrnd r) s = .next { s with
      st := addRoundKey
        (if k.val = 10 then shiftRows (subBytes s.rom s.st) else mixColumns (shiftRows (subBytes s.rom s.st))) (s.rk.get k)
      status := { s.status with lastCode := .ok }, phase := .done .ok }

/-- R153, R155: DECRND r, for r in 0..9, is InvShiftRows, InvSubBytes, AddRoundKey of RK[r], InvMixColumns but in round 0. -/
def Obligations.DecrndRunsOneRound : Prop :=
  ∀ (r : BitVec 4) (k : Fin 11) (s : State), r.toNat = k.val → k.val ≤ 9 →
    s.status.keyValid = true → s.status.stValid = true →
    exec (.decrnd r) s = .next { s with
      st := if k.val = 0 then addRoundKey (invSubBytes s.rom (invShiftRows s.st)) (s.rk.get k)
        else invMixColumns (addRoundKey (invSubBytes s.rom (invShiftRows s.st)) (s.rk.get k))
      status := { s.status with lastCode := .ok }, phase := .done .ok }

/-- R150, R156: ENCBLK leaves M(10), where M(0) = ST XOR RK[0] and M(n) is round n of M(n-1), in one command. -/
def Obligations.EncblkRunsTenRounds : Prop :=
  ∀ (s : State) (m : Nat → Mat), s.status.keyValid = true → s.status.stValid = true →
    m 0 = addRoundKey s.st (s.rk.get 0) →
    (∀ k : Fin 10, m (k.val + 1) = addRoundKey
      (if k.val + 1 = 10 then shiftRows (subBytes s.rom (m k.val)) else mixColumns (shiftRows (subBytes s.rom (m k.val))))
      (s.rk.get k.succ)) →
    exec .encblk s = .next { s with st := m 10, status := { s.status with lastCode := .ok }, phase := .done .ok }

/-- R151, R157: DECBLK leaves M(0), where M(10) = ST XOR RK[10] and M(n) is decryption round n of M(n+1), in one command. -/
def Obligations.DecblkRunsTenRounds : Prop :=
  ∀ (s : State) (m : Nat → Mat), s.status.keyValid = true → s.status.stValid = true →
    m 10 = addRoundKey s.st (s.rk.get 10) →
    (∀ k : Fin 10, m k.val =
      if k.val = 0 then addRoundKey (invSubBytes s.rom (invShiftRows (m (k.val + 1)))) (s.rk.get k.castSucc)
      else invMixColumns (addRoundKey (invSubBytes s.rom (invShiftRows (m (k.val + 1)))) (s.rk.get k.castSucc))) →
    exec .decblk s = .next { s with st := m 0, status := { s.status with lastCode := .ok }, phase := .done .ok }

/-- R70, R156, R157: the 11 commands of ENCSTEPS leave what ENCBLK leaves, and those of DECSTEPS what DECBLK leaves. -/
def Obligations.StepwisePipelinesEqualBlockCommands : Prop :=
  ∀ (s : State) (d : BusWord), s.status.keyValid = true → s.status.stValid = true →
    (∃ t u, transact 0x38000000 d s = .next t ∧ runCommands Pseudo.encsteps.expand s = .next u ∧
      u.st = t.st ∧ u.rk = t.rk ∧ u.y = t.y ∧ u.status = t.status ∧ u.phase = t.phase) ∧
    (∃ t u, transact 0x39000000 d s = .next t ∧ runCommands Pseudo.decsteps.expand s = .next u ∧
      u.st = t.st ∧ u.rk = t.rk ∧ u.y = t.y ∧ u.status = t.status ∧ u.phase = t.phase)

/-- R158: ENCBLK and then DECBLK, with no key load between, restore ST; so they do for every Block and every round keys. -/
def Obligations.DecblkUndoesEncblk : Prop :=
  ∀ (s : State) (d d' : BusWord), s.status.keyValid = true → s.status.stValid = true →
    ∃ t u, transact 0x38000000 d s = .next t ∧ transact 0x39000000 d' t = .next u ∧ u.st = s.st ∧
      t.status.lastCode = .ok ∧ u.status.lastCode = .ok

/-- R155's relation of the intermediate values: in DECSTEPS on a ciphertext, the state after DECRND r, r ≥ 1, is ShiftRows of
SubBytes of the state after ENCRND r-1 (after ARK 0, for r = 1) in ENCSTEPS on its plaintext. -/
def Obligations.DecryptionIntermediateStates : Prop :=
  ∀ (s : State) (e dd : Nat → State), s.status.keyValid = true → s.status.stValid = true →
    exec (.ark 0) s = .next (e 0) →
    (∀ k : Fin 10, exec (.encrnd (BitVec.ofNat 4 (k.val + 1))) (e k.val) = .next (e (k.val + 1))) →
    exec (.ark 10) (e 10) = .next (dd 10) →
    (∀ k : Fin 10, exec (.decrnd (BitVec.ofNat 4 k.val)) (dd (k.val + 1)) = .next (dd k.val)) →
    (∀ k : Fin 9, (dd (k.val + 1)).st = shiftRows (subBytes s.rom (e k.val).st)) ∧ (dd 0).st = s.st

/-! ### The host's side -/

/-- R69: what the assembler emits for a mnemonic is the legal spelling of a command with that mnemonic's opcode. -/
def Obligations.AssembledCommandsDecode : Prop :=
  ∀ (o : Opcode) (operands : List (List Char)) (c : Command), assembleOpcode o operands = some c →
    ∃ i, decode c.word = .command i ∧ i.opcode = o
end

