-- ==== Sys2Proof/Laws/Block.lean ====
section
/-! SUPPORT. Cells, columns, buffers and bus values: each view determines the others (R9, R42, R43). -/

namespace Sys2Proof.Machine

@[simp] theorem Col.get_ofFn (f : Fin 4 → Byte) (k : Fin 4) : (Col.ofFn f).get k = f k := by
  fin_cases k <;> rfl

@[simp] theorem Mat.col_ofFn (f : Fin 4 → Fin 4 → Byte) (c : Fin 4) : (Mat.ofFn f).col c = Col.ofFn (f · c) := by
  fin_cases c <;> rfl

@[simp] theorem Mat.get_ofFn (f : Fin 4 → Fin 4 → Byte) (r c : Fin 4) : (Mat.ofFn f).get r c = f r c := by
  simp only [Mat.get, Mat.col_ofFn, Col.get_ofFn]

/-- A column's cells are a column of the matrix. -/
@[simp] theorem Mat.col_get (m : Mat) (r c : Fin 4) : (m.col c).get r = m.get r c := rfl

/-- A matrix is its 16 cells. -/
theorem Mat.ext_get {m k : Mat} (h : ∀ r c, m.get r c = k.get r c) : m = k := by
  obtain ⟨⟨_, _, _, _⟩, ⟨_, _, _, _⟩, ⟨_, _, _, _⟩, ⟨_, _, _, _⟩⟩ := m
  obtain ⟨⟨_, _, _, _⟩, ⟨_, _, _, _⟩, ⟨_, _, _, _⟩, ⟨_, _, _, _⟩⟩ := k
  simp only [Mat.mk.injEq, Col.mk.injEq]
  exact ⟨⟨h 0 0, h 1 0, h 2 0, h 3 0⟩, ⟨h 0 1, h 1 1, h 2 1, h 3 1⟩, ⟨h 0 2, h 1 2, h 2 2, h 3 2⟩,
    ⟨h 0 3, h 1 3, h 2 3, h 3 3⟩⟩

/-- The matrix of a buffer holds byte 4c + r at row r and column c (R9). -/
@[simp] theorem mat_get (b : Buf) (r c : Fin 4) : (mat b).get r c = b (cellIndex r c) := by
  simp [mat]

@[simp] theorem indexRow_cellIndex (r c : Fin 4) : indexRow (cellIndex r c) = r := by
  apply Fin.ext; simp [indexRow, cellIndex]

@[simp] theorem indexCol_cellIndex (r c : Fin 4) : indexCol (cellIndex r c) = c := by
  apply Fin.ext; simp [indexCol, cellIndex]; omega

@[simp] theorem cellIndex_index (i : Fin 16) : cellIndex (indexRow i) (indexCol i) = i := by
  apply Fin.ext; simp [indexRow, indexCol, cellIndex]; omega

/-- Writing out and reading in a matrix is the identity. -/
@[simp] theorem mat_flat (m : Mat) : mat (flat m) = m := by
  apply Mat.ext_get; intro r c; simp [flat]

/-- Reading in and writing out a buffer is the identity. -/
@[simp] theorem flat_mat (b : Buf) : flat (mat b) = b := by
  funext i; simp [flat]

/-! ### The bus (R42) -/

/-- A concatenation, as a number. -/
theorem toNat_append_add {n m : Nat} (x : BitVec n) (y : BitVec m) : (x ++ y).toNat = x.toNat * 2 ^ m + y.toNat := by
  rw [BitVec.toNat_append, ← Nat.shiftLeft_add_eq_or_of_lt y.isLt, Nat.shiftLeft_eq]

theorem bus_toNat (b : Buf) :
    (bus b).toNat = (b 0).toNat * 2 ^ 120 + (b 1).toNat * 2 ^ 112 + (b 2).toNat * 2 ^ 104 + (b 3).toNat * 2 ^ 96 +
      (b 4).toNat * 2 ^ 88 + (b 5).toNat * 2 ^ 80 + (b 6).toNat * 2 ^ 72 + (b 7).toNat * 2 ^ 64 +
      (b 8).toNat * 2 ^ 56 + (b 9).toNat * 2 ^ 48 + (b 10).toNat * 2 ^ 40 + (b 11).toNat * 2 ^ 32 +
      (b 12).toNat * 2 ^ 24 + (b 13).toNat * 2 ^ 16 + (b 14).toNat * 2 ^ 8 + (b 15).toNat := by
  simp only [bus, BitVec.toNat_cast, toNat_append_add]
  omega

/-- `bytes` undoes `bus`. -/
@[simp] theorem bytes_bus (b : Buf) : bytes (bus b) = b := by
  funext i
  apply BitVec.eq_of_toNat_eq
  simp only [bytes, BitVec.extractLsb'_toNat, bus_toNat, Nat.shiftRight_eq_div_pow]
  have h : ∀ i, (b i).toNat < 256 := fun i => (b i).isLt
  have h0 := h 0; have h1 := h 1; have h2 := h 2; have h3 := h 3
  have h4 := h 4; have h5 := h 5; have h6 := h 6; have h7 := h 7
  have h8 := h 8; have h9 := h 9; have h10 := h 10; have h11 := h 11
  have h12 := h 12; have h13 := h 13; have h14 := h 14; have h15 := h 15
  fin_cases i <;> simp [Fin.reduceFinMk] <;> omega

/-- Bit j of byte i is bus bit 120 - 8i + j. -/
theorem bytes_getLsbD (v : BusWord) (i : Fin 16) (j : Nat) (hj : j < 8) :
    (bytes v i).getLsbD j = v.getLsbD (120 - 8 * i.val + j) := by
  simp [bytes, hj]

theorem bytes_injective {v w : BusWord} (h : bytes v = bytes w) : v = w := by
  apply BitVec.eq_of_getLsbD_eq
  intro k hk
  have e : 120 - 8 * (15 - k / 8) + k % 8 = k := by omega
  have hv := bytes_getLsbD v ⟨15 - k / 8, by omega⟩ (k % 8) (by omega)
  have hw := bytes_getLsbD w ⟨15 - k / 8, by omega⟩ (k % 8) (by omega)
  simp only [e] at hv hw
  rw [← hv, ← hw, h]

/-- `bus` undoes `bytes`. -/
@[simp] theorem bus_bytes (v : BusWord) : bus (bytes v) = v := bytes_injective (bytes_bus _)

/-- A Block that goes in on the bus comes out the same (R43). -/
@[simp] theorem Mat.toBus_ofBus (v : BusWord) : (Mat.ofBus v).toBus = v := by
  simp [Mat.toBus, Mat.ofBus]

/-- A matrix that goes out on the bus comes in the same (R43). -/
@[simp] theorem Mat.ofBus_toBus (m : Mat) : Mat.ofBus m.toBus = m := by
  simp [Mat.toBus, Mat.ofBus]

end Sys2Proof.Machine
end

