-- ==== Sys2Proof/Laws/Decode.lean ====
section
/-! SUPPORT. The fields of a command word built from fields, and the opcode map both ways. -/

namespace Sys2Proof

open Sys2Proof.Machine (toNat_append_add)

theorem CmdWord.ofFields_toNat (op a b : Byte) (r : BitVec 4) :
    (CmdWord.ofFields op a b r).toNat = op.toNat * 2 ^ 24 + a.toNat * 2 ^ 16 + b.toNat * 2 ^ 8 + r.toNat * 2 ^ 4 := by
  simp only [CmdWord.ofFields, BitVec.toNat_cast, toNat_append_add, BitVec.toNat_ofNat]
  omega

@[simp] theorem CmdWord.op_ofFields (op a b : Byte) (r : BitVec 4) : CmdWord.op (CmdWord.ofFields op a b r) = op := by
  apply BitVec.eq_of_toNat_eq
  have := a.isLt; have := op.isLt; have := b.isLt; have := r.isLt
  simp only [CmdWord.op, BitVec.extractLsb'_toNat, CmdWord.ofFields_toNat, Nat.shiftRight_eq_div_pow]
  omega

@[simp] theorem CmdWord.a_ofFields (op a b : Byte) (r : BitVec 4) : CmdWord.a (CmdWord.ofFields op a b r) = a := by
  apply BitVec.eq_of_toNat_eq
  have := a.isLt; have := op.isLt; have := b.isLt; have := r.isLt
  simp only [CmdWord.a, BitVec.extractLsb'_toNat, CmdWord.ofFields_toNat, Nat.shiftRight_eq_div_pow]
  omega

@[simp] theorem CmdWord.b_ofFields (op a b : Byte) (r : BitVec 4) : CmdWord.b (CmdWord.ofFields op a b r) = b := by
  apply BitVec.eq_of_toNat_eq
  have := a.isLt; have := op.isLt; have := b.isLt; have := r.isLt
  simp only [CmdWord.b, BitVec.extractLsb'_toNat, CmdWord.ofFields_toNat, Nat.shiftRight_eq_div_pow]
  omega

@[simp] theorem CmdWord.r_ofFields (op a b : Byte) (r : BitVec 4) : CmdWord.r (CmdWord.ofFields op a b r) = r := by
  apply BitVec.eq_of_toNat_eq
  have := a.isLt; have := op.isLt; have := b.isLt; have := r.isLt
  simp only [CmdWord.r, BitVec.extractLsb'_toNat, CmdWord.ofFields_toNat, Nat.shiftRight_eq_div_pow]
  omega

/-- A word with Z zero is the word of its own fields. -/
theorem CmdWord.eq_ofFields (w : CmdWord) (hz : CmdWord.z w = 0) :
    w = CmdWord.ofFields (CmdWord.op w) (CmdWord.a w) (CmdWord.b w) (CmdWord.r w) := by
  apply BitVec.eq_of_toNat_eq
  have hw := w.isLt
  have h0 : w.toNat % 16 = 0 := by simpa [CmdWord.z] using congrArg BitVec.toNat hz
  simp only [CmdWord.ofFields_toNat, CmdWord.op, CmdWord.a, CmdWord.b, CmdWord.r, BitVec.extractLsb'_toNat,
    Nat.shiftRight_eq_div_pow]
  omega

/-- A word with one byte operand, whose 8 bits the mask drops (R65). -/
theorem CmdWord.byte_spelling (op a : Byte) : CmdWord.ofFields op a 0 0 &&& 0xFF00FFFF = CmdWord.ofFields op 0 0 0 := by
  apply BitVec.eq_of_getLsbD_eq
  intro j hj
  simp only [CmdWord.ofFields, BitVec.getLsbD_and, BitVec.getLsbD_cast, BitVec.getLsbD_append]
  interval_cases j <;> simp

/-- A word with two byte operands, whose 16 bits the mask drops (R65). -/
theorem CmdWord.bytes_spelling (op a b : Byte) : CmdWord.ofFields op a b 0 &&& 0xFF0000FF = CmdWord.ofFields op 0 0 0 := by
  apply BitVec.eq_of_getLsbD_eq
  intro j hj
  simp only [CmdWord.ofFields, BitVec.getLsbD_and, BitVec.getLsbD_cast, BitVec.getLsbD_append]
  interval_cases j <;> simp

/-- A word with a round index, whose 4 bits the mask drops (R65). -/
theorem CmdWord.round_spelling (op : Byte) (r : BitVec 4) : CmdWord.ofFields op 0 0 r &&& 0xFFFFFF0F = CmdWord.ofFields op 0 0 0 := by
  apply BitVec.eq_of_getLsbD_eq
  intro j hj
  simp only [CmdWord.ofFields, BitVec.getLsbD_and, BitVec.getLsbD_cast, BitVec.getLsbD_append]
  interval_cases j <;> simp

@[simp] theorem Opcode.ofByte_byte (o : Opcode) : Opcode.ofByte o.byte = some o := by
  cases o <;> rfl

/-- The opcode map is one to one (R64). -/
theorem Opcode.ofByte_eq_some {v : Byte} {o : Opcode} : Opcode.ofByte v = some o ↔ v = o.byte := by
  constructor
  · intro h
    unfold Opcode.ofByte at h
    split at h <;> first
      | (injection h with h; subst h; exact BitVec.eq_of_toNat_eq ‹_›)
      | (simp at h)
  · rintro rfl
    exact Opcode.ofByte_byte o

end Sys2Proof
end

