-- ==== Sys2Proof/Laws/Galois.lean ====
section
/-! SUPPORT. The doubling of a byte is linear over XOR, and selecting respects XOR. -/

namespace Sys2Proof.Machine

/-- `xtime` is linear over XOR (used by R84's laws). -/
theorem xtime_xor (x y : Byte) : xtime (x ^^^ y) = xtime x ^^^ xtime y := by
  have h : ∀ c d : Bool, (if (c ^^ d) then (0x1B : Byte) else 0) = (if c then 0x1B else 0) ^^^ (if d then 0x1B else 0) := by
    decide
  have e : ∀ v : Byte, xtime v = (v <<< 1) ^^^ (if v.getLsbD 7 then 0x1B else 0) := by
    intro v; unfold xtime; split <;> simp
  rw [e, e, e, BitVec.getLsbD_xor, h, BitVec.shiftLeft_xor_distrib]
  generalize (x <<< 1 : Byte) = a, (y <<< 1 : Byte) = b
  generalize (if x.getLsbD 7 then (0x1B : Byte) else 0) = c
  generalize (if y.getLsbD 7 then (0x1B : Byte) else 0) = d
  rw [BitVec.xor_assoc, BitVec.xor_assoc, ← BitVec.xor_assoc b c d, BitVec.xor_comm b c, BitVec.xor_assoc]

/-- Selecting respects XOR. -/
theorem selected_xor (bit : Bool) (x y : Byte) : selected bit (x ^^^ y) = selected bit x ^^^ selected bit y := by
  cases bit <;> simp [selected]

end Sys2Proof.Machine
end

