-- ==== Sys2Proof/Laws/State.lean ====
section
/-! SUPPORT. What each update of the state and of STATUS leaves in each field. -/

namespace Sys2Proof.Machine

/-! ### loadKeys -/

@[simp] theorem State.loadKeys_rom (keys : RoundKeys) (s : State) : (s.loadKeys keys).rom = s.rom := rfl
@[simp] theorem State.loadKeys_rk (keys : RoundKeys) (s : State) : (s.loadKeys keys).rk = keys := rfl
@[simp] theorem State.loadKeys_st (keys : RoundKeys) (s : State) : (s.loadKeys keys).st = s.st := rfl
@[simp] theorem State.loadKeys_y (keys : RoundKeys) (s : State) : (s.loadKeys keys).y = s.y := rfl
@[simp] theorem State.loadKeys_status (keys : RoundKeys) (s : State) : (s.loadKeys keys).status = s.status.setKeyValid := rfl
@[simp] theorem State.loadKeys_phase (keys : RoundKeys) (s : State) : (s.loadKeys keys).phase = s.phase := rfl
@[simp] theorem State.loadKeys_cmdLatch (keys : RoundKeys) (s : State) : (s.loadKeys keys).cmdLatch = s.cmdLatch := rfl
@[simp] theorem State.loadKeys_dinLatch (keys : RoundKeys) (s : State) : (s.loadKeys keys).dinLatch = s.dinLatch := rfl
@[simp] theorem State.loadKeys_pins (keys : RoundKeys) (s : State) : (s.loadKeys keys).pins = s.pins := rfl
@[simp] theorem State.loadKeys_draws (keys : RoundKeys) (s : State) : (s.loadKeys keys).draws = s.draws := rfl

/-! ### writeSt -/

@[simp] theorem State.writeSt_rom (m : Mat) (s : State) : (s.writeSt m).rom = s.rom := rfl
@[simp] theorem State.writeSt_rk (m : Mat) (s : State) : (s.writeSt m).rk = s.rk := rfl
@[simp] theorem State.writeSt_st (m : Mat) (s : State) : (s.writeSt m).st = m := rfl
@[simp] theorem State.writeSt_y (m : Mat) (s : State) : (s.writeSt m).y = s.y := rfl
@[simp] theorem State.writeSt_status (m : Mat) (s : State) : (s.writeSt m).status = s.status := rfl
@[simp] theorem State.writeSt_phase (m : Mat) (s : State) : (s.writeSt m).phase = s.phase := rfl
@[simp] theorem State.writeSt_cmdLatch (m : Mat) (s : State) : (s.writeSt m).cmdLatch = s.cmdLatch := rfl
@[simp] theorem State.writeSt_dinLatch (m : Mat) (s : State) : (s.writeSt m).dinLatch = s.dinLatch := rfl
@[simp] theorem State.writeSt_pins (m : Mat) (s : State) : (s.writeSt m).pins = s.pins := rfl
@[simp] theorem State.writeSt_draws (m : Mat) (s : State) : (s.writeSt m).draws = s.draws := rfl

/-! ### loadSt -/

@[simp] theorem State.loadSt_rom (m : Mat) (s : State) : (s.loadSt m).rom = s.rom := rfl
@[simp] theorem State.loadSt_rk (m : Mat) (s : State) : (s.loadSt m).rk = s.rk := rfl
@[simp] theorem State.loadSt_st (m : Mat) (s : State) : (s.loadSt m).st = m := rfl
@[simp] theorem State.loadSt_y (m : Mat) (s : State) : (s.loadSt m).y = s.y := rfl
@[simp] theorem State.loadSt_status (m : Mat) (s : State) : (s.loadSt m).status = s.status.setStValid := rfl
@[simp] theorem State.loadSt_phase (m : Mat) (s : State) : (s.loadSt m).phase = s.phase := rfl
@[simp] theorem State.loadSt_cmdLatch (m : Mat) (s : State) : (s.loadSt m).cmdLatch = s.cmdLatch := rfl
@[simp] theorem State.loadSt_dinLatch (m : Mat) (s : State) : (s.loadSt m).dinLatch = s.dinLatch := rfl
@[simp] theorem State.loadSt_pins (m : Mat) (s : State) : (s.loadSt m).pins = s.pins := rfl
@[simp] theorem State.loadSt_draws (m : Mat) (s : State) : (s.loadSt m).draws = s.draws := rfl

/-! ### writeY -/

@[simp] theorem State.writeY_rom (v : Byte) (s : State) : (s.writeY v).rom = s.rom := rfl
@[simp] theorem State.writeY_rk (v : Byte) (s : State) : (s.writeY v).rk = s.rk := rfl
@[simp] theorem State.writeY_st (v : Byte) (s : State) : (s.writeY v).st = s.st := rfl
@[simp] theorem State.writeY_y (v : Byte) (s : State) : (s.writeY v).y = v := rfl
@[simp] theorem State.writeY_status (v : Byte) (s : State) : (s.writeY v).status = s.status.setYValid := rfl
@[simp] theorem State.writeY_phase (v : Byte) (s : State) : (s.writeY v).phase = s.phase := rfl
@[simp] theorem State.writeY_cmdLatch (v : Byte) (s : State) : (s.writeY v).cmdLatch = s.cmdLatch := rfl
@[simp] theorem State.writeY_dinLatch (v : Byte) (s : State) : (s.writeY v).dinLatch = s.dinLatch := rfl
@[simp] theorem State.writeY_pins (v : Byte) (s : State) : (s.writeY v).pins = s.pins := rfl
@[simp] theorem State.writeY_draws (v : Byte) (s : State) : (s.writeY v).draws = s.draws := rfl

/-! ### raise -/

@[simp] theorem State.raise_rom (code : RspCode) (s : State) : (s.raise code).rom = s.rom := rfl
@[simp] theorem State.raise_rk (code : RspCode) (s : State) : (s.raise code).rk = s.rk := rfl
@[simp] theorem State.raise_st (code : RspCode) (s : State) : (s.raise code).st = s.st := rfl
@[simp] theorem State.raise_y (code : RspCode) (s : State) : (s.raise code).y = s.y := rfl
@[simp] theorem State.raise_status (code : RspCode) (s : State) : (s.raise code).status = s.status.afterError code := rfl
@[simp] theorem State.raise_phase (code : RspCode) (s : State) : (s.raise code).phase = .done code := rfl
@[simp] theorem State.raise_cmdLatch (code : RspCode) (s : State) : (s.raise code).cmdLatch = s.cmdLatch := rfl
@[simp] theorem State.raise_dinLatch (code : RspCode) (s : State) : (s.raise code).dinLatch = s.dinLatch := rfl
@[simp] theorem State.raise_pins (code : RspCode) (s : State) : (s.raise code).pins = s.pins := rfl
@[simp] theorem State.raise_draws (code : RspCode) (s : State) : (s.raise code).draws = s.draws := rfl

/-! ### completeOk -/

@[simp] theorem State.completeOk_rom (s : State) : (s.completeOk).rom = s.rom := rfl
@[simp] theorem State.completeOk_rk (s : State) : (s.completeOk).rk = s.rk := rfl
@[simp] theorem State.completeOk_st (s : State) : (s.completeOk).st = s.st := rfl
@[simp] theorem State.completeOk_y (s : State) : (s.completeOk).y = s.y := rfl
@[simp] theorem State.completeOk_status (s : State) : (s.completeOk).status = s.status.afterOk := rfl
@[simp] theorem State.completeOk_phase (s : State) : (s.completeOk).phase = .done .ok := rfl
@[simp] theorem State.completeOk_cmdLatch (s : State) : (s.completeOk).cmdLatch = s.cmdLatch := rfl
@[simp] theorem State.completeOk_dinLatch (s : State) : (s.completeOk).dinLatch = s.dinLatch := rfl
@[simp] theorem State.completeOk_pins (s : State) : (s.completeOk).pins = s.pins := rfl
@[simp] theorem State.completeOk_draws (s : State) : (s.completeOk).draws = s.draws := rfl

/-! ### resetEdge -/

@[simp] theorem State.resetEdge_rom (s : State) : (s.resetEdge).rom = s.rom := rfl
@[simp] theorem State.resetEdge_rk (s : State) : (s.resetEdge).rk = freeRoundKeys s.draws := rfl
@[simp] theorem State.resetEdge_st (s : State) : (s.resetEdge).st = Mat.ofBus (Config.freeState s.draws) := rfl
@[simp] theorem State.resetEdge_y (s : State) : (s.resetEdge).y = Config.freeScalar s.draws := rfl
@[simp] theorem State.resetEdge_status (s : State) : (s.resetEdge).status = Status.cleared := rfl
@[simp] theorem State.resetEdge_phase (s : State) : (s.resetEdge).phase = .inReset := rfl
@[simp] theorem State.resetEdge_cmdLatch (s : State) : (s.resetEdge).cmdLatch = s.cmdLatch := rfl
@[simp] theorem State.resetEdge_dinLatch (s : State) : (s.resetEdge).dinLatch = s.dinLatch := rfl
@[simp] theorem State.resetEdge_pins (s : State) : (s.resetEdge).pins = s.pins := rfl
@[simp] theorem State.resetEdge_draws (s : State) : (s.resetEdge).draws = s.draws := rfl

/-! ### tick -/

@[simp] theorem State.tick_rom (s : State) : (s.tick).rom = s.rom := rfl
@[simp] theorem State.tick_rk (s : State) : (s.tick).rk = s.rk := rfl
@[simp] theorem State.tick_st (s : State) : (s.tick).st = s.st := rfl
@[simp] theorem State.tick_y (s : State) : (s.tick).y = s.y := rfl
@[simp] theorem State.tick_status (s : State) : (s.tick).status = s.status := rfl
@[simp] theorem State.tick_phase (s : State) : (s.tick).phase = s.phase := rfl
@[simp] theorem State.tick_cmdLatch (s : State) : (s.tick).cmdLatch = s.cmdLatch := rfl
@[simp] theorem State.tick_dinLatch (s : State) : (s.tick).dinLatch = s.dinLatch := rfl
@[simp] theorem State.tick_pins (s : State) : (s.tick).pins = s.pins.tail := rfl
@[simp] theorem State.tick_draws (s : State) : (s.tick).draws = s.draws + 1 := rfl

/-! ### accept -/

@[simp] theorem State.accept_rom (w : CmdWord) (d : BusWord) (s : State) : (s.accept w d).rom = s.rom := rfl
@[simp] theorem State.accept_rk (w : CmdWord) (d : BusWord) (s : State) : (s.accept w d).rk = s.rk := rfl
@[simp] theorem State.accept_st (w : CmdWord) (d : BusWord) (s : State) : (s.accept w d).st = s.st := rfl
@[simp] theorem State.accept_y (w : CmdWord) (d : BusWord) (s : State) : (s.accept w d).y = s.y := rfl
@[simp] theorem State.accept_status (w : CmdWord) (d : BusWord) (s : State) : (s.accept w d).status = s.status := rfl
@[simp] theorem State.accept_phase (w : CmdWord) (d : BusWord) (s : State) : (s.accept w d).phase = .busy 0 := rfl
@[simp] theorem State.accept_cmdLatch (w : CmdWord) (d : BusWord) (s : State) : (s.accept w d).cmdLatch = w := rfl
@[simp] theorem State.accept_dinLatch (w : CmdWord) (d : BusWord) (s : State) : (s.accept w d).dinLatch = d := rfl
@[simp] theorem State.accept_pins (w : CmdWord) (d : BusWord) (s : State) : (s.accept w d).pins = s.pins := rfl
@[simp] theorem State.accept_draws (w : CmdWord) (d : BusWord) (s : State) : (s.accept w d).draws = s.draws := rfl

/-! ### placeCommand -/

@[simp] theorem State.placeCommand_rom (w : CmdWord) (s : State) : (s.placeCommand w).rom = s.rom := rfl
@[simp] theorem State.placeCommand_rk (w : CmdWord) (s : State) : (s.placeCommand w).rk = s.rk := rfl
@[simp] theorem State.placeCommand_st (w : CmdWord) (s : State) : (s.placeCommand w).st = s.st := rfl
@[simp] theorem State.placeCommand_y (w : CmdWord) (s : State) : (s.placeCommand w).y = s.y := rfl
@[simp] theorem State.placeCommand_status (w : CmdWord) (s : State) : (s.placeCommand w).status = s.status := rfl
@[simp] theorem State.placeCommand_phase (w : CmdWord) (s : State) : (s.placeCommand w).phase = .busy 0 := rfl
@[simp] theorem State.placeCommand_cmdLatch (w : CmdWord) (s : State) : (s.placeCommand w).cmdLatch = w := rfl
@[simp] theorem State.placeCommand_dinLatch (w : CmdWord) (s : State) : (s.placeCommand w).dinLatch = s.dinLatch := rfl
@[simp] theorem State.placeCommand_pins (w : CmdWord) (s : State) : (s.placeCommand w).pins = Edge.quiet true :: s.pins := rfl
@[simp] theorem State.placeCommand_draws (w : CmdWord) (s : State) : (s.placeCommand w).draws = s.draws := rfl

/-! ### STATUS -/

@[simp] theorem Status.afterError_keyValid (code : RspCode) (s : Status) : (s.afterError code).keyValid = s.keyValid := rfl
@[simp] theorem Status.afterError_stValid (code : RspCode) (s : Status) : (s.afterError code).stValid = s.stValid := rfl
@[simp] theorem Status.afterError_yValid (code : RspCode) (s : Status) : (s.afterError code).yValid = s.yValid := rfl
@[simp] theorem Status.afterError_err (code : RspCode) (s : Status) : (s.afterError code).err = true := rfl
@[simp] theorem Status.afterError_lastCode (code : RspCode) (s : Status) : (s.afterError code).lastCode = code := rfl
@[simp] theorem Status.afterOk_keyValid (s : Status) : (s.afterOk).keyValid = s.keyValid := rfl
@[simp] theorem Status.afterOk_stValid (s : Status) : (s.afterOk).stValid = s.stValid := rfl
@[simp] theorem Status.afterOk_yValid (s : Status) : (s.afterOk).yValid = s.yValid := rfl
@[simp] theorem Status.afterOk_err (s : Status) : (s.afterOk).err = s.err := rfl
@[simp] theorem Status.afterOk_lastCode (s : Status) : (s.afterOk).lastCode = .ok := rfl
@[simp] theorem Status.setKeyValid_keyValid (s : Status) : (s.setKeyValid).keyValid = true := rfl
@[simp] theorem Status.setKeyValid_stValid (s : Status) : (s.setKeyValid).stValid = s.stValid := rfl
@[simp] theorem Status.setKeyValid_yValid (s : Status) : (s.setKeyValid).yValid = s.yValid := rfl
@[simp] theorem Status.setKeyValid_err (s : Status) : (s.setKeyValid).err = s.err := rfl
@[simp] theorem Status.setKeyValid_lastCode (s : Status) : (s.setKeyValid).lastCode = s.lastCode := rfl
@[simp] theorem Status.setStValid_keyValid (s : Status) : (s.setStValid).keyValid = s.keyValid := rfl
@[simp] theorem Status.setStValid_stValid (s : Status) : (s.setStValid).stValid = true := rfl
@[simp] theorem Status.setStValid_yValid (s : Status) : (s.setStValid).yValid = s.yValid := rfl
@[simp] theorem Status.setStValid_err (s : Status) : (s.setStValid).err = s.err := rfl
@[simp] theorem Status.setStValid_lastCode (s : Status) : (s.setStValid).lastCode = s.lastCode := rfl
@[simp] theorem Status.setYValid_keyValid (s : Status) : (s.setYValid).keyValid = s.keyValid := rfl
@[simp] theorem Status.setYValid_stValid (s : Status) : (s.setYValid).stValid = s.stValid := rfl
@[simp] theorem Status.setYValid_yValid (s : Status) : (s.setYValid).yValid = true := rfl
@[simp] theorem Status.setYValid_err (s : Status) : (s.setYValid).err = s.err := rfl
@[simp] theorem Status.setYValid_lastCode (s : Status) : (s.setYValid).lastCode = s.lastCode := rfl

/-! ### Whole states -/

/-- The constant storage is hard-wired: every state holds the same contents (R21 to R24). -/
theorem Rom.eq_contents (rom : Rom) : rom = Rom.contents := by
  obtain ⟨_, _, _, _, rfl, rfl, rfl, rfl⟩ := rom
  rfl

/-- Two states that agree in every field are one state. -/
theorem State.ext_fields {s t : State} (h1 : s.rom = t.rom) (h2 : s.rk = t.rk) (h3 : s.st = t.st) (h4 : s.y = t.y)
    (h5 : s.status = t.status) (h6 : s.phase = t.phase) (h7 : s.cmdLatch = t.cmdLatch) (h8 : s.dinLatch = t.dinLatch)
    (h9 : s.pins = t.pins) (h10 : s.draws = t.draws) : s = t := by
  cases s; cases t; simp_all

end Sys2Proof.Machine
end

