-- ==== Sys2Proof/Laws/Ops.lean ====
section
/-! SUPPORT. What each shared operation can do, said once: every meaning is one of a few shapes, and every command ends in a
completion cycle. -/

namespace Sys2Proof.Machine

/-! ### The checks -/

@[simp] theorem complete_eq (s : State) : complete s = .next s.completeOk := rfl

@[simp] theorem fail_eq (code : RspCode) (s : State) : fail code s = .next (s.raise code) := rfl

@[simp] theorem requireRange_some {α : Type} (v : α) (s : State) (body : α → Outcome) :
    requireRange (some v) s body = body v := rfl

@[simp] theorem requireRange_none {α : Type} (s : State) (body : α → Outcome) :
    requireRange none s body = .next (s.raise .errRange) := rfl

theorem requireKey_of_valid {s : State} (h : s.status.keyValid = true) (body : Outcome) : requireKey s body = body := by
  simp [requireKey, h]

theorem requireKey_of_invalid {s : State} (h : s.status.keyValid = false) (body : Outcome) :
    requireKey s body = .next (s.raise .errNoKey) := by
  simp [requireKey, h]

theorem requireState_of_valid {s : State} (h : s.status.stValid = true) (body : Outcome) : requireState s body = body := by
  simp [requireState, h]

theorem requireState_of_invalid {s : State} (h : s.status.stValid = false) (body : Outcome) :
    requireState s body = .next (s.raise .errNoState) := by
  simp [requireState, h]

theorem transformSt_of_valid {s : State} (h : s.status.stValid = true) (f : Mat → Mat) :
    transformSt f s = .next (s.writeSt (f s.st)).completeOk := by
  simp [transformSt, requireState_of_valid h]

theorem transformStWithKeys_of_valid {s : State} (hk : s.status.keyValid = true) (hs : s.status.stValid = true)
    (f : Mat → Mat) : transformStWithKeys f s = .next (s.writeSt (f s.st)).completeOk := by
  simp [transformStWithKeys, requireKey_of_valid hk, requireState_of_valid hs]

/-! ### The operand ranges -/

theorem roundIndex_eq_some {lo hi : Nat} {r : BitVec 4} (h1 : lo ≤ r.toNat) (h2 : r.toNat ≤ hi) (h3 : r.toNat < 11) :
    roundIndex lo hi r = some ⟨r.toNat, h3⟩ := by
  simp [roundIndex, h1, h2, h3]

theorem roundIndex_eq_none {lo hi : Nat} {r : BitVec 4} (h : ¬ (lo ≤ r.toNat ∧ r.toNat ≤ hi ∧ r.toNat < 11)) :
    roundIndex lo hi r = none := by
  simp only [roundIndex, h, ↓reduceDIte]

theorem keyIndex_eq_some {r : BitVec 4} (h : r.toNat < 11) : keyIndex r = some ⟨r.toNat, h⟩ :=
  roundIndex_eq_some (Nat.zero_le _) (by omega) h

theorem encIndex_eq_some {r : BitVec 4} (h0 : 1 ≤ r.toNat) (h : r.toNat < 11) : encIndex r = some ⟨r.toNat, h⟩ :=
  roundIndex_eq_some h0 (by omega) h

theorem decIndex_eq_some {r : BitVec 4} (h : r.toNat < 10) : decIndex r = some ⟨r.toNat, by omega⟩ :=
  roundIndex_eq_some (Nat.zero_le _) (by omega) (by omega)

theorem keyIndex_eq_none {r : BitVec 4} (h : 10 < r.toNat) : keyIndex r = none :=
  roundIndex_eq_none (by omega)

theorem encIndex_eq_none {r : BitVec 4} (h : r.toNat < 1 ∨ 10 < r.toNat) : encIndex r = none :=
  roundIndex_eq_none (by omega)

theorem decIndex_eq_none {r : BitVec 4} (h : 9 < r.toNat) : decIndex r = none :=
  roundIndex_eq_none (by omega)

/-! ### What a command does, in one inversion lemma -/

/-- The five shapes in which a command can end: in error; OK and nothing written; OK and ST, Y or RK written. -/
inductive Ending (s : State) : State → Prop where
  | error (code : RspCode) (h : code ≠ .ok) : Ending s (s.raise code)
  | plain : Ending s s.completeOk
  | scalar (v : Byte) : Ending s (s.writeY v).completeOk
  | keys (key : BusWord) : Ending s (s.loadKeys (expandKey s.rom (bytes key))).completeOk
  | loaded (m : Mat) : Ending s (s.loadSt m).completeOk
  | written (m : Mat) (h : s.status.stValid = true) : Ending s (s.writeSt m).completeOk

theorem requireRange_ending {α : Type} {s : State} (operand : Option α) {body : α → Outcome}
    (h : ∀ v, ∃ t, body v = .next t ∧ Ending s t) : ∃ t, requireRange operand s body = .next t ∧ Ending s t := by
  cases operand with
  | some v => exact h v
  | none => exact ⟨_, rfl, .error _ (by decide)⟩

theorem requireKey_ending {s : State} {body : Outcome} (h : ∃ t, body = .next t ∧ Ending s t) :
    ∃ t, requireKey s body = .next t ∧ Ending s t := by
  cases hk : s.status.keyValid with
  | true => rwa [requireKey_of_valid hk]
  | false => exact ⟨_, requireKey_of_invalid hk _, .error _ (by decide)⟩

theorem requireState_ending {s : State} {body : Outcome}
    (h : s.status.stValid = true → ∃ t, body = .next t ∧ Ending s t) :
    ∃ t, requireState s body = .next t ∧ Ending s t := by
  cases hk : s.status.stValid with
  | true => rw [requireState_of_valid hk]; exact h hk
  | false => exact ⟨_, requireState_of_invalid hk _, .error _ (by decide)⟩

theorem transformSt_ending (f : Mat → Mat) (s : State) : ∃ t, transformSt f s = .next t ∧ Ending s t :=
  requireState_ending fun h => ⟨_, rfl, .written _ h⟩

theorem transformStWithKeys_ending (f : Mat → Mat) (s : State) :
    ∃ t, transformStWithKeys f s = .next t ∧ Ending s t :=
  requireKey_ending (requireState_ending fun h => ⟨_, rfl, .written _ h⟩)

/-- Every command answers a next state, and it ends in one of the five shapes. -/
theorem exec_ending (i : Instr) (s : State) : ∃ t, exec i s = .next t ∧ Ending s t := by
  cases i with
  | nop => exact ⟨_, rfl, .plain⟩
  | ldst => exact ⟨_, rfl, .loaded _⟩
  | keyexp => exact ⟨_, rfl, .keys s.dinLatch⟩
  | keyfix => exact ⟨_, rfl, .keys s.rom.fixedKey⟩
  | ldrk r => exact requireRange_ending _ fun _ => requireKey_ending ⟨_, rfl, .loaded _⟩
  | xtime a => exact ⟨_, rfl, .scalar _⟩
  | gfmul a b => exact requireRange_ending _ fun _ => ⟨_, rfl, .scalar _⟩
  | sbox a => exact ⟨_, rfl, .scalar _⟩
  | isbox a => exact ⟨_, rfl, .scalar _⟩
  | subb => exact transformSt_ending _ s
  | isubb => exact transformSt_ending _ s
  | shrow => exact transformSt_ending _ s
  | ishrow => exact transformSt_ending _ s
  | mixcol => exact transformSt_ending _ s
  | imixcol => exact transformSt_ending _ s
  | ark r => exact requireRange_ending _ fun _ => transformStWithKeys_ending _ s
  | encrnd r => exact requireRange_ending _ fun _ => transformStWithKeys_ending _ s
  | decrnd r => exact requireRange_ending _ fun _ => transformStWithKeys_ending _ s
  | encblk => exact transformStWithKeys_ending _ s
  | decblk => exact transformStWithKeys_ending _ s

/-- Every sampled word is answered, and the command ends in one of the five shapes. -/
theorem perform_ending (s : State) : ∃ t, perform s = .next t ∧ Ending s t := by
  unfold perform
  cases h : decode s.cmdLatch with
  | command i => exact exec_ending i s
  | rejected code =>
    refine ⟨_, rfl, .error code ?_⟩
    rintro rfl
    unfold decode at h
    split at h
    · simp at h
    · split at h <;> simp at h

/-- A command leaves the constant storage, the sampled inputs, the schedule and the draw counter alone. -/
theorem Ending.frame {s t : State} (h : Ending s t) :
    t.rom = s.rom ∧ t.cmdLatch = s.cmdLatch ∧ t.dinLatch = s.dinLatch ∧ t.pins = s.pins ∧ t.draws = s.draws := by
  cases h <;> simp

/-- A command ends in a completion cycle whose code is LAST_CODE. -/
theorem Ending.completion {s t : State} (h : Ending s t) : t.phase = .done t.status.lastCode := by
  cases h <;> simp

/-! ### The interface fields

What a command computes never looks at the phase, the schedule, the draw counter or the sampled word: they only pass through. -/

/-- `s` with other interface fields. -/
def State.withInterface (s : State) (w : CmdWord) (p : Phase) (ps : List Edge) (n : Nat) : State :=
  { s with cmdLatch := w, phase := p, pins := ps, draws := n }

/-- Two outcomes that differ only in the fields that pass through. -/
def SameButInterface (w : CmdWord) (ps : List Edge) (n : Nat) (a b : Outcome) : Prop :=
  ∃ t, a = .next t ∧ b = .next { t with cmdLatch := w, pins := ps, draws := n }

theorem exec_interface (i : Instr) (s : State) (w p ps n) :
    SameButInterface w ps n (exec i s) (exec i (s.withInterface w p ps n)) := by
  have hr : ∀ {α} (o : Option α) (f g : α → Outcome), (∀ v, SameButInterface w ps n (f v) (g v)) →
      SameButInterface w ps n (requireRange o s f) (requireRange o (s.withInterface w p ps n) g) := by
    intro α o f g h
    cases o with
    | some v => exact h v
    | none => exact ⟨_, rfl, rfl⟩
  have hk : ∀ (f g : Outcome), SameButInterface w ps n f g → SameButInterface w ps n (requireKey s f) (requireKey (s.withInterface w p ps n) g) := by
    intro f g h
    unfold requireKey
    cases hv : s.status.keyValid with
    | true => simpa [State.withInterface, hv] using h
    | false => simp only [State.withInterface, hv]; exact ⟨_, rfl, rfl⟩
  have hs : ∀ (f g : Outcome), SameButInterface w ps n f g → SameButInterface w ps n (requireState s f) (requireState (s.withInterface w p ps n) g) := by
    intro f g h
    unfold requireState
    cases hv : s.status.stValid with
    | true => simpa [State.withInterface, hv] using h
    | false => simp only [State.withInterface, hv]; exact ⟨_, rfl, rfl⟩
  cases i with
  | ldrk r => exact hr _ _ _ fun _ => hk _ _ ⟨_, rfl, rfl⟩
  | gfmul a b => exact hr _ _ _ fun _ => ⟨_, rfl, rfl⟩
  | subb | isubb | shrow | ishrow | mixcol | imixcol => exact hs _ _ ⟨_, rfl, rfl⟩
  | ark r | encrnd r | decrnd r => exact hr _ _ _ fun _ => hk _ _ (hs _ _ ⟨_, rfl, rfl⟩)
  | encblk | decblk => exact hk _ _ (hs _ _ ⟨_, rfl, rfl⟩)
  | _ => exact ⟨_, rfl, rfl⟩

theorem perform_interface (s : State) (p ps n) :
    SameButInterface s.cmdLatch ps n (perform s) (perform (s.withInterface s.cmdLatch p ps n)) := by
  unfold perform
  cases h : decode s.cmdLatch with
  | command i => simp only [State.withInterface, h]; exact exec_interface i s s.cmdLatch p ps n
  | rejected c => simp only [State.withInterface, h]; exact ⟨_, rfl, rfl⟩

/-! ### One edge -/

/-- What one rising edge can do. -/
inductive EdgeEffect (s : State) : State → Prop where
  | reset (h : s.nextEdge.rst = true) : EdgeEffect s s.tick.resetEdge
  | released (h : s.nextEdge.rst = false) (hp : s.phase = .inReset) : EdgeEffect s { s.tick with phase := .idle }
  | waiting (h : s.nextEdge.rst = false) (n : Nat) (hp : s.phase = .busy n) (hc : completesNow s.nextEdge.finish n = false) :
      EdgeEffect s { s.tick with phase := .busy (n + 1) }
  | completed (h : s.nextEdge.rst = false) (n : Nat) (hp : s.phase = .busy n)
      (hc : completesNow s.nextEdge.finish n = true) (t : State) (ht : perform s.tick = .next t) (he : Ending s.tick t) :
      EdgeEffect s t
  | accepted (h : s.nextEdge.rst = false) (hp : s.phase.ready = true) (hv : s.nextEdge.cmdValid = true) :
      EdgeEffect s (s.tick.accept s.nextEdge.cmd s.nextEdge.din)
  | stayed (h : s.nextEdge.rst = false) (hp : s.phase.ready = true) (hv : s.nextEdge.cmdValid = false) :
      EdgeEffect s { s.tick with phase := .idle }

theorem offer_effect {s : State} (h : s.nextEdge.rst = false) (hp : s.phase.ready = true) :
    EdgeEffect s (s.tick.offer s.nextEdge) := by
  unfold State.offer
  split
  · exact .accepted h hp ‹_›
  · exact .stayed h hp (Bool.eq_false_iff.mpr ‹_›)

/-- Every edge answers a next state, and it is one of the six effects. -/
theorem clockEdge_effect (s : State) : ∃ t, clockEdge s = .next t ∧ EdgeEffect s t := by
  unfold clockEdge
  cases h : s.nextEdge.rst with
  | true => exact ⟨_, by simp [h], .reset h⟩
  | false =>
    cases hp : s.phase with
    | inReset => exact ⟨_, by simp [h], .released h hp⟩
    | idle => exact ⟨_, by simp [h], offer_effect h (by simp [hp, Phase.ready])⟩
    | done code => exact ⟨_, by simp [h], offer_effect h (by simp [hp, Phase.ready])⟩
    | busy n =>
      cases hc : completesNow s.nextEdge.finish n with
      | false => exact ⟨_, by simp [h, hc], .waiting h n hp hc⟩
      | true =>
        obtain ⟨t, ht, he⟩ := perform_ending s.tick
        exact ⟨t, by simpa [h, hc] using ht, .completed h n hp hc t ht he⟩

/-- The same, from a step that is known. -/
theorem step_effect {s t : State} (h : step s = .next t) : EdgeEffect s t := by
  obtain ⟨u, hu, he⟩ := clockEdge_effect s
  have : u = t := by
    have := hu.symm.trans h
    injection this
  exact this ▸ he

end Sys2Proof.Machine
end

