-- ==== Sys2Proof/Laws/PerInstr.lean ====
section
/-! SUPPORT. Statements about every command, one lemma per constructor. -/

/-- The command word of a command is a legal spelling of its opcode: `(w AND mask) = match` (R65). -/
def Sys2Proof.Laws.LegalSpelling.Statement (i : Sys2Proof.Instr) : Prop :=
  Sys2Proof.encode i &&& i.opcode.mask = i.opcode.pattern

namespace Sys2Proof.Laws.LegalSpelling

theorem nop : Statement .nop := rfl

theorem ldst : Statement .ldst := rfl

theorem keyexp : Statement .keyexp := rfl

theorem keyfix : Statement .keyfix := rfl

theorem ldrk (r : BitVec 4) : Statement (.ldrk r) := (CmdWord.round_spelling _ r).trans (by simp only [Instr.opcode]; decide)

theorem xtime (a : Byte) : Statement (.xtime a) := (CmdWord.byte_spelling _ a).trans (by simp only [Instr.opcode]; decide)

theorem gfmul (a : Byte) (b : Byte) : Statement (.gfmul a b) := (CmdWord.bytes_spelling _ a b).trans (by simp only [Instr.opcode]; decide)

theorem sbox (a : Byte) : Statement (.sbox a) := (CmdWord.byte_spelling _ a).trans (by simp only [Instr.opcode]; decide)

theorem isbox (a : Byte) : Statement (.isbox a) := (CmdWord.byte_spelling _ a).trans (by simp only [Instr.opcode]; decide)

theorem subb : Statement .subb := rfl

theorem isubb : Statement .isubb := rfl

theorem shrow : Statement .shrow := rfl

theorem ishrow : Statement .ishrow := rfl

theorem mixcol : Statement .mixcol := rfl

theorem imixcol : Statement .imixcol := rfl

theorem ark (r : BitVec 4) : Statement (.ark r) := (CmdWord.round_spelling _ r).trans (by simp only [Instr.opcode]; decide)

theorem encrnd (r : BitVec 4) : Statement (.encrnd r) := (CmdWord.round_spelling _ r).trans (by simp only [Instr.opcode]; decide)

theorem decrnd (r : BitVec 4) : Statement (.decrnd r) := (CmdWord.round_spelling _ r).trans (by simp only [Instr.opcode]; decide)

theorem encblk : Statement .encblk := rfl

theorem decblk : Statement .decblk := rfl

end Sys2Proof.Laws.LegalSpelling
end

