-- ==== Sys2Proof/Tests/Slice0.lean ====
section
/-! SUPPORT. Tests against values of the spec (the vectors of file 95 and the examples of the rules), and for every statement with
hypotheses a witness that meets them. -/

namespace Sys2Proof.Tests

open Sys2Proof Sys2Proof.Machine

set_option maxRecDepth 100000

/-! ### Helpers -/

/-- The state an outcome gives. -/
def after : Outcome → State
  | .next t => t
  | .fault _ => State.reset
  | .refused _ => State.reset

/-- A state that has loaded a key and a Block. -/
def loaded (key block : BusWord) : State :=
  { State.reset with
    rk := expandKey Rom.contents (bytes key)
    st := Mat.ofBus block
    status := { Status.cleared with keyValid := true, stValid := true } }

/-- FIPS-197's Appendix B key and Block, as file 95 lists them. -/
def fips : State := loaded 0x2B7E151628AED2A6ABF7158809CF4F3C 0x3243F6A8885A308D313198A2E0370734

/-- The Block 00 01 … 0F in ST. -/
def counting : State := loaded 0 0x000102030405060708090A0B0C0D0E0F

/-- A state with a command in flight, whose next edge finishes it or not. -/
def inFlight (w : CmdWord) (finish : Bool) : State :=
  { State.reset with cmdLatch := w, phase := .busy 0, pins := [Edge.quiet finish] }

/-- An edge that offers a command. -/
def offering (w : CmdWord) (d : BusWord) : Edge := ⟨false, true, w, d, false⟩

theorem exec_after (i : Instr) (s : State) : exec i s = .next (after (exec i s)) := by
  obtain ⟨t, h, _⟩ := exec_ending i s
  rw [h]; rfl

theorem step_after (s : State) : step s = .next (after (step s)) := by
  obtain ⟨t, h, _⟩ := clockEdge_effect s
  have h' : step s = .next t := h
  rw [h']; rfl

/-! ### WellFormed: an ill-formed term for each check -/

theorem test_ldrk_round_too_high : (Instr.ldrk 11).wellFormed = false := by decide
theorem test_ark_round_too_high : (Instr.ark 11).wellFormed = false := by decide
theorem test_gfmul_coefficient_too_high : (Instr.gfmul 0x10 0x57).wellFormed = false := by decide
theorem test_encrnd_round_zero : (Instr.encrnd 0).wellFormed = false := by decide
theorem test_encrnd_round_too_high : (Instr.encrnd 11).wellFormed = false := by decide
theorem test_decrnd_round_too_high : (Instr.decrnd 10).wellFormed = false := by decide
theorem test_highest_operands_are_well_formed :
    (Instr.ldrk 10).wellFormed && (Instr.ark 10).wellFormed && (Instr.gfmul 0x0F 0xFF).wellFormed &&
      (Instr.encrnd 10).wellFormed && (Instr.decrnd 9).wellFormed = true := by decide

/-! ### Decoding: words written out from the encoding column of R69 -/

theorem test_decode_nop : decode 0x00000000 = .command .nop := by decide
theorem test_decode_ldst : decode 0x01000000 = .command .ldst := by decide
theorem test_decode_keyexp : decode 0x02000000 = .command .keyexp := by decide
theorem test_decode_keyfix : decode 0x03000000 = .command .keyfix := by decide
theorem test_decode_ldrk : decode 0x040000A0 = .command (.ldrk 10) := by decide
theorem test_decode_xtime : decode 0x10570000 = .command (.xtime 0x57) := by decide
theorem test_decode_gfmul : decode 0x11035700 = .command (.gfmul 0x03 0x57) := by decide
theorem test_decode_sbox : decode 0x12530000 = .command (.sbox 0x53) := by decide
theorem test_decode_isbox : decode 0x13ED0000 = .command (.isbox 0xED) := by decide
theorem test_decode_subb : decode 0x20000000 = .command .subb := by decide
theorem test_decode_isubb : decode 0x21000000 = .command .isubb := by decide
theorem test_decode_shrow : decode 0x22000000 = .command .shrow := by decide
theorem test_decode_ishrow : decode 0x23000000 = .command .ishrow := by decide
theorem test_decode_mixcol : decode 0x24000000 = .command .mixcol := by decide
theorem test_decode_imixcol : decode 0x25000000 = .command .imixcol := by decide
theorem test_decode_ark : decode 0x260000C0 = .command (.ark 12) := by decide
theorem test_decode_encrnd : decode 0x30000010 = .command (.encrnd 1) := by decide
theorem test_decode_decrnd : decode 0x31000070 = .command (.decrnd 7) := by decide
theorem test_decode_encblk : decode 0x38000000 = .command .encblk := by decide
theorem test_decode_decblk : decode 0x39000000 = .command .decblk := by decide

/-- Words with bits in must-be-zero fields: Z, A, B and R (R68, and the corner cases of file 95). -/
theorem test_reserved_fields_rejected :
    decode 0x00000001 = .rejected .errRsv ∧ decode 0x00010000 = .rejected .errRsv ∧ decode 0x03000010 = .rejected .errRsv ∧
    decode 0x12000010 = .rejected .errRsv ∧ decode 0x11035701 = .rejected .errRsv ∧ decode 0x10570100 = .rejected .errRsv := by
  decide

/-- The ends of the illegal ranges of R67. -/
theorem test_illegal_opcodes_rejected :
    ∀ op ∈ [0x05, 0x0F, 0x14, 0x1F, 0x27, 0x2F, 0x32, 0x37, 0x3A, 0x40, 0xFF],
      decode (BitVec.ofNat 32 (op * 2 ^ 24)) = .rejected .errOpcode := by decide

/-- The legal neighbours of those ranges. -/
theorem test_legal_opcodes_accepted :
    ∀ op ∈ [0x00, 0x04, 0x10, 0x13, 0x20, 0x26, 0x31, 0x38, 0x39],
      (decode (BitVec.ofNat 32 (op * 2 ^ 24))).toOption.isSome = true := by decide

theorem test_table_word : decodeTableWord 32 0x30000010 = some (.encrnd 1) := by decide

/-! ### Control and keys -/

theorem test_nop_clears_last_code :
    (after (exec .nop { State.reset with status := ⟨true, false, true, true, .errRange⟩ })).status.word = 0x0D := by decide

theorem test_ldst_is_column_major :
    let t := after (exec .ldst { State.reset with dinLatch := 0x000102030405060708090A0B0C0D0E0F })
    t.st.get 1 0 = 0x01 ∧ t.st.get 0 1 = 0x04 ∧ t.st.get 3 3 = 0x0F ∧ t.status.word = 0x02 := by decide

theorem test_keyexp_last_round_key :
    let t := after (exec .keyexp { State.reset with dinLatch := 0x2B7E151628AED2A6ABF7158809CF4F3C })
    (t.rk.get 10).toBus = 0xD014F9A8C9EE2589E13F0CC8B6630CA6 ∧ t.status.word = 0x01 := by decide

theorem test_keyfix_round_keys :
    let t := after (exec .keyfix State.reset)
    (t.rk.get 1).toBus = 0xDEAA727FDAA37078D3AA7A75D2A7747A ∧ (t.rk.get 10).toBus = 0xF37C7FB63354D580915EF24C84560D52 := by
  decide

theorem test_ldrk_shows_a_round_key :
    (after (exec (.ldrk 10) fips)).dout = 0xD014F9A8C9EE2589E13F0CC8B6630CA6 := by decide

theorem test_ldrk_without_key : (after (exec (.ldrk 0) State.reset)).status.word = 0x48 := by decide

/-! ### The field and the tables -/

theorem test_xtime_reduces : (after (exec (.xtime 0xAE) State.reset)).y = 0x47 := by decide
theorem test_xtime_does_not_reduce : (after (exec (.xtime 0x7F) State.reset)).y = 0xFE := by decide
theorem test_gfmul : (after (exec (.gfmul 0x0E 0x57) State.reset)).y = 0x67 := by decide
theorem test_gfmul_rejects_high_coefficient :
    let t := after (exec (.gfmul 0x13 0x57) State.reset)
    t.y = State.reset.y ∧ t.status.word = 0x38 := by decide
theorem test_sbox : (after (exec (.sbox 0x53) State.reset)).y = 0xED := by decide
theorem test_isbox : (after (exec (.isbox 0x10) State.reset)).y = 0x7C := by decide
theorem test_yout_and_status :
    let t := after (exec (.sbox 0x00) State.reset)
    t.yout = 0x63 ∧ t.statusPort = 0x04 := by decide

/-! ### Round primitives: rows of section 2.6 of file 95 -/

theorem test_subb : (after (exec .subb counting)).dout = 0x637C777BF26B6FC53001672BFED7AB76 := by decide
theorem test_isubb : (after (exec .isubb counting)).dout = 0x52096AD53036A538BF40A39E81F3D7FB := by decide
theorem test_shrow : (after (exec .shrow counting)).dout = 0x00050A0F04090E03080D02070C01060B := by decide
theorem test_ishrow : (after (exec .ishrow counting)).dout = 0x000D0A0704010E0B0805020F0C090603 := by decide
theorem test_mixcol :
    (after (exec .mixcol (loaded 0 0xD4BF5D30E0B452AEB84111F11E2798E5))).dout = 0x046681E5E0CB199A48F8D37A2806264C := by decide
theorem test_imixcol :
    (after (exec .imixcol (loaded 0 0x046681E5E0CB199A48F8D37A2806264C))).dout = 0xD4BF5D30E0B452AEB84111F11E2798E5 := by decide
theorem test_ark : (after (exec (.ark 0) fips)).dout = 0x193DE3BEA0F4E22B9AC68D2AE9F84808 := by decide
theorem test_subb_without_state : (after (exec .subb State.reset)).status.word = 0x58 := by decide

/-! ### Rounds and pipelines -/

theorem test_encrnd :
    (after (exec (.encrnd 1) (loaded 0x2B7E151628AED2A6ABF7158809CF4F3C 0x193DE3BEA0F4E22B9AC68D2AE9F84808))).dout =
      0xA49C7FF2689F352B6B5BEA43026A5049 := by decide
theorem test_encrnd_zero_rejected : (after (exec (.encrnd 0) fips)).status.word = 0x3B := by decide
theorem test_decrnd :
    (after (exec (.decrnd 1) (loaded 0x2B7E151628AED2A6ABF7158809CF4F3C 0x49DB873B453953897F02D2F177DE961A))).dout =
      0xD4BF5D30E0B452AEB84111F11E2798E5 := by decide
theorem test_encblk :
    (after (exec .encblk (loaded 0x080104030409020709090A0D010D0E0F 0x32353733000000000000000000000000))).dout =
      0x9E0CD4B6C0AFAB307016610BB7872D22 := by decide
theorem test_decblk :
    (after (exec .decblk (loaded 0x080104030409020709090A0D010D0E0F 0x9E0CD4B6C0AFAB307016610BB7872D22))).dout =
      0x32353733000000000000000000000000 := by decide
theorem test_encblk_without_key : (after (exec .encblk State.reset)).status.word = 0x48 := by decide

/-! ### The clock edge and the host's side -/

theorem test_fetch_word_runs :
    (after (step (State.reset.withFetchWord 32 0x10800000))).y = 0x1B := by decide

/-- Acceptance at one edge, completion at the next (R202, R204). -/
theorem test_two_edges_run_keyfix :
    let s := { State.reset with pins := [offering 0x03000000 0, Edge.quiet true, Edge.quiet false] }
    let t := after (step (after (step s)))
    (after (step s)).cmdReady = false ∧ t.rspValid = true ∧ t.rspCode = 0x0 ∧ t.statusPort = 0x01 := by decide

/-- A word that is no command is answered by its code (program P4 of file 95, its third command on its own). -/
theorem test_bad_word_is_answered : (after (transact 0x40000000 0 State.reset)).status.word = 0x18 := by decide

/-- The first six commands of program P4 of file 95: the codes in order, and the status at the end. -/
theorem test_errors_after_reset :
    (shown [⟨0x38000000, 0⟩, ⟨0x20000000, 0⟩, ⟨0x40000000, 0⟩, ⟨0x00000001, 0⟩, ⟨0x11135700, 0⟩, ⟨0x260000C0, 0⟩]
      State.reset).map (fun v => (v.codes, v.status)) =
    some ([.errNoKey, .errNoState, .errOpcode, .errRsv, .errRange, .errRange], 0x38) := by decide

theorem test_entry_sizes :
    State.reset.memRead .sbox 0xFF = some [0x16] ∧ State.reset.memRead .sbox 0x100 = none ∧
    State.reset.memRead .invSbox 0xFF = some [0x7D] ∧ State.reset.memRead .rcon 10 = some [0x36] ∧
    State.reset.memRead .rcon 0 = none ∧ State.reset.memRead .rcon 11 = none ∧ State.reset.memRead .rk 11 = none ∧
    State.reset.memRead .fixedKey 0 =
      some [0x08, 0x01, 0x04, 0x03, 0x04, 0x09, 0x02, 0x07, 0x09, 0x09, 0x0A, 0x0D, 0x01, 0x0D, 0x0E, 0x0F] := by decide

theorem test_assemble_gfmul :
    assembleLine "  GFMUL 0x03, 87 ; the MixColumns coefficient".toList = some [⟨0x11035700, 0⟩] := by decide

theorem test_assemble_encrypt :
    assembleLine "ENCRYPT 32353733000000000000000000000000".toList =
      some [⟨0x01000000, 0x32353733000000000000000000000000⟩, ⟨0x38000000, 0⟩] := by decide

theorem test_assemble_raw_word : assembleLine ".word 0x40000000".toList = some [⟨0x40000000, 0⟩] := by decide

theorem test_assemble_refuses : assembleLine "SBOX 256".toList = none ∧ assembleLine "LDRK 16".toList = none := by decide

/-! ### Witnesses: encoding and responses -/

theorem witness_EncodeOfDecodedWord : decode 0x260000A0 = .command (.ark 10) := by decide

theorem witness_LegalSpellingIsMaskedMatch :
    (0x260000F0 : CmdWord) &&& 0xFFFFFF0F = BitVec.ofNat 32 (0x26 * 2 ^ 24) ∧ decode 0x260000F0 = .command (.ark 15) ∧
    (0x26000001 : CmdWord) &&& 0xFFFFFF0F ≠ BitVec.ofNat 32 (0x26 * 2 ^ 24) := by decide

/-- A word on each side of the two clauses, and one that the second clause sends to ERR_RSV. -/
theorem witness_IllegalOpcodesAreRejected :
    (0x05000000 : CmdWord).toNat / 2 ^ 24 = 0x05 ∧ decode 0x04000000 = .command (.ldrk 0) ∧ encode (.ldrk 0) = 0x04000000 ∧
    decode 0x04000001 = .rejected .errRsv := by decide

theorem witness_ReservedFieldsAreRejected :
    (0x1100000F : CmdWord).toNat / 2 ^ 24 = Opcode.gfmul.byte.toNat ∧ (0x1100000F : CmdWord).toNat % 16 ≠ 0 ∧
    (0x00010000 : CmdWord).toNat / 2 ^ 24 = Opcode.nop.byte.toNat ∧ (0x00010000 : CmdWord).toNat / 2 ^ 16 % 256 ≠ 0 ∧
    (0x10570100 : CmdWord).toNat / 2 ^ 24 = Opcode.xtime.byte.toNat ∧ (0x10570100 : CmdWord).toNat / 2 ^ 8 % 256 ≠ 0 ∧
    (0x12000010 : CmdWord).toNat / 2 ^ 24 = Opcode.sbox.byte.toNat ∧ (0x12000010 : CmdWord).toNat / 2 ^ 4 % 16 ≠ 0 := by decide

theorem witness_ErrorsChangeOnlyStatus :
    responseOf 0x40000000 false false = .errOpcode ∧ responseOf 0x00000001 false false = .errRsv ∧
    responseOf 0x11135700 false false = .errRange ∧ responseOf 0x38000000 false false = .errNoKey ∧
    responseOf 0x38000000 true false = .errNoState := by decide

theorem witness_SuccessRecordsOkAndKeepsErr :
    responseOf 0x38000000 fips.status.keyValid fips.status.stValid = .ok := by decide

theorem witness_OutOfRangeOperandsAreRejected :
    ∀ i ∈ [Instr.ldrk 11, .ark 15, .gfmul 0x10 0, .encrnd 0, .encrnd 11, .decrnd 10], i.wellFormed = false := by decide

/-- The state for the second clause: a key and no Block. -/
def keyedOnly : State := { fips with status := { fips.status with stValid := false } }

theorem witness_ReadsOfUnloadedStateAreRejected :
    (Instr.ldrk 10).wellFormed = true ∧ (Instr.ldrk 10).opcode ∈ [Opcode.ldrk, .ark, .encrnd, .decrnd, .encblk, .decblk] ∧
    State.reset.status.keyValid = false ∧
    (Instr.ark 0).wellFormed = true ∧ (Instr.ark 0).opcode ∈ [Opcode.ark, .encrnd, .decrnd, .encblk, .decblk] ∧
    keyedOnly.status.stValid = false ∧ keyedOnly.status.keyValid = true := by decide

/-! ### Witnesses: reset, handshake and ports -/

theorem witness_ResetEdgeClearsStatusAndAbandons :
    State.nextEdge { fips with phase := .busy 0, pins := [⟨true, false, 0, 0, true⟩] } = ⟨true, false, 0, 0, true⟩ := by decide

theorem witness_IdleAfterResetReleased :
    let s := { State.reset with phase := .inReset, pins := [offering 0x38000000 0] }
    s.phase = .inReset ∧ s.nextEdge.rst = false := by decide

/-- Idle with an offer; in a completion cycle with no offer; in flight. -/
theorem witness_AcceptanceSamplesCmdAndDin :
    (let s := { State.reset with pins := [offering 0x38000000 0] }; s.cmdReady = true ∧ s.nextEdge.cmdValid = true) ∧
    (let s := { State.reset with phase := .done .errRange, pins := [Edge.quiet false] }
     s.cmdReady = true ∧ s.nextEdge.cmdValid = false) ∧
    (inFlight 0x38000000 true).cmdReady = false := by decide

theorem witness_CommandInFlightCommitsNothing :
    let s := inFlight 0x38000000 false
    s.phase = .busy 0 ∧ s.nextEdge.rst = false ∧ s.nextEdge.finish = false := by decide

/-- Both ways in which a command completes: the edge says so, or LAT_MAX is used up. -/
theorem witness_StepRunsTheSampledCommand :
    (let s := inFlight 0x38000000 true
     s.phase = .busy 0 ∧ s.nextEdge.rst = false ∧ s.nextEdge.finish = true ∧ decode s.cmdLatch = .command .encblk) ∧
    Config.latMax ≤ Config.latMaxPred + 1 := ⟨by decide, Nat.le_refl _⟩

theorem witness_StepAnswersTheSampledBadWord :
    let s := inFlight 0x40000000 true
    s.phase = .busy 0 ∧ s.nextEdge.rst = false ∧ s.nextEdge.finish = true ∧ decode s.cmdLatch = .rejected .errOpcode := by decide

theorem witness_FetchWordRunsItsCommand : decode (BitVec.ofNat 32 0x39000000) = .command .decblk := by decide

/-- The completing edge, and after it a cycle in which rst is low. -/
theorem witness_CompletionCycleShowsTheResponse :
    let s := { inFlight 0x03000000 true with pins := [Edge.quiet true, Edge.quiet false] }
    s.phase = .busy 0 ∧ s.nextEdge.rst = false ∧ s.nextEdge.finish = true ∧ (after (step s)).nextEdge.rst = false := by decide

theorem witness_OutputsCarryStColumnMajor : ∀ n, fips.phase ≠ .busy n := fun _ h => by cases h

theorem witness_StatusPortFields : ∀ n, (after (exec .encblk fips)).phase ≠ .busy n := fun _ h => by cases h

theorem witness_CommandsCompleteWithinLatMax :
    (inFlight 0x38000000 false).phase = .busy 0 ∧ 0 < Config.latMax ∧
    ∀ e ∈ (inFlight 0x38000000 false).pins.take (Config.latMax - 0), e.rst = false :=
  ⟨rfl, Nat.succ_pos _, fun e h => by
    have : e ∈ [Edge.quiet false] := List.mem_of_mem_take h
    simp only [List.mem_singleton] at this
    subst this; rfl⟩

theorem witness_CycleRunIsOneTransaction :
    let offer := offering 0x38000000 0
    let last := Edge.quiet true
    let s := { fips with pins := offer :: ([] ++ last :: []) }
    s.phase.ready = true ∧ offer.rst = false ∧ offer.cmdValid = true ∧ ([] : List Edge).length < Config.latMax ∧
      last.rst = false ∧ last.finish = true :=
  ⟨rfl, rfl, rfl, Nat.succ_pos _, rfl, rfl⟩

/-- The same with a waiting edge, which LAT_MAX, being opaque, leaves room for only by assumption. -/
theorem witness_CycleRunIsOneTransaction_waiting (room : 1 < Config.latMax) :
    let offer := offering 0x38000000 0
    let last := Edge.quiet true
    let waits := [Edge.quiet false]
    let s := { fips with pins := offer :: (waits ++ last :: []) }
    s.phase.ready = true ∧ offer.rst = false ∧ offer.cmdValid = true ∧ (∀ e ∈ waits, e.rst = false ∧ e.finish = false) ∧
      waits.length < Config.latMax ∧ last.rst = false ∧ last.finish = true :=
  ⟨rfl, rfl, rfl, by decide, room, rfl, rfl⟩

/-! ### Witnesses: whole-machine rules -/

/-- The completion cycle of a key load that follows an error. -/
def keyed : State :=
  { loaded 0x2B7E151628AED2A6ABF7158809CF4F3C 0 with status := ⟨true, true, true, true, .ok⟩, phase := .done .ok }

theorem witness_StepKeepsTheInvariant : keyed.Inv ∧ step keyed = .next (after (step keyed)) :=
  ⟨⟨fun _ => ⟨0x2B7E151628AED2A6ABF7158809CF4F3C, rfl⟩, fun _ => rfl, fun _ h => (by cases h; rfl), fun _ h => (by cases h)⟩,
    step_after keyed⟩

theorem witness_OnlyResetClearsStatusBits :
    step keyed = .next (after (step keyed)) ∧ keyed.nextEdge.rst = false ∧ keyed.status.keyValid = true ∧
      keyed.status.stValid = true ∧ keyed.status.yValid = true ∧ keyed.status.err = true :=
  ⟨step_after keyed, rfl, rfl, rfl, rfl, rfl⟩

/-- Two states after reset that differ in ST and Y. -/
theorem witness_UnspecifiedValuesNeverMatter :
    let s := inFlight 0x03000000 true
    let t := { s with st := Mat.ofBus 1, y := 1 }
    s.AgreeOnValid t ∧ s ≠ t ∧ step s = .next (after (step s)) ∧ step t = .next (after (step t)) :=
  ⟨⟨rfl, rfl, fun _ => rfl, fun h => (by cases h), fun h => (by cases h), rfl, rfl, rfl, rfl, rfl⟩, by decide,
    step_after _, step_after _⟩

theorem witness_OnlyTheListedCommandsWrite :
    exec .keyfix State.reset = .next (after (exec .keyfix State.reset)) ∧
    (after (exec .keyfix State.reset)).rk ≠ State.reset.rk ∧ (after (exec .encblk fips)).st ≠ fips.st ∧
    (after (exec (.sbox 0) fips)).y ≠ fips.y :=
  ⟨exec_after _ _, by decide, by decide, by decide⟩

theorem witness_OnlyLdstAndKeyexpReadDin :
    (∃ t, transact 0x03000000 0 State.reset = .next t) ∧ (0x03000000 : CmdWord).toNat / 2 ^ 24 ≠ 0x01 ∧
    (0x03000000 : CmdWord).toNat / 2 ^ 24 ≠ 0x02 ∧ (∃ t, transact 0x03000000 1 State.reset = .next t) :=
  ⟨(perform_ending _).imp fun _ h => h.1, by decide, by decide, (perform_ending _).imp fun _ h => h.1⟩

theorem witness_EarlierErrorsLeaveOnlyErr : ∃ t, transact 0x38000000 0 fips = .next t :=
  (perform_ending _).imp fun _ h => h.1

/-- The index range of RK from both sides. -/
theorem witness_StorageReadsAreWholeEntries : fips.memRead .rk 10 ≠ none ∧ fips.memRead .rk 11 = none := by decide

/-! ### Witnesses: the commands -/

theorem witness_LdrkCopiesARoundKey :
    fips.status.keyValid = true ∧ (0 : BitVec 4).toNat = (0 : Fin 11).val ∧ (10 : BitVec 4).toNat = (10 : Fin 11).val := by decide

theorem witness_RoundConstantsAreDoublings : ∀ j ∈ [1, 9], 1 ≤ j ∧ j < 10 := by decide

/-- The doublings of a byte. -/
def doublings (b : Byte) : Nat → Byte
  | 0 => b
  | k + 1 => (doublings b k <<< 1) ^^^ (if (doublings b k).getLsbD 7 then 0x1B else 0x00)

theorem witness_GfmulSumsSelectedDoublings :
    doublings 0xFF 0 = 0xFF ∧
    (∀ k, doublings 0xFF (k + 1) = (doublings 0xFF k <<< 1) ^^^ (if (doublings 0xFF k).getLsbD 7 then 0x1B else 0x00)) ∧
    (0x0F : Byte).toNat < 16 :=
  ⟨rfl, fun _ => rfl, by decide⟩

theorem witness_FieldMultiplyIsTheFieldProduct : (0x0F : Byte).extractLsb' 4 4 = 0 := by decide

theorem witness_FieldMultiplyLaws : (0x0F : Byte).extractLsb' 4 4 = 0 ∧ (0x00 : Byte).extractLsb' 4 4 = 0 := by decide

/-- The inverse of 0x53 is 0xCA in FIPS-197's field, and its substitute is 0xED (file 95). -/
theorem witness_SboxIsInverseThenAffine :
    (0x53 : Byte) ≠ 0 ∧ fieldMultiplyFull 0x53 0xCA = 1 ∧ affine 0xCA = 0xED ∧ affine 0 = 0x63 := by decide

theorem witness_SubbAndIsubbSubstituteEveryCell : counting.status.stValid = true := rfl
theorem witness_ShrowAndIshrowRotateRows : counting.status.stValid = true := rfl
theorem witness_MixcolAndImixcolMultiplyColumns : counting.status.stValid = true := rfl

theorem witness_ArkAddsARoundKey :
    (10 : BitVec 4).toNat = (10 : Fin 11).val ∧ (0 : BitVec 4).toNat = (0 : Fin 11).val ∧ fips.status.keyValid = true ∧
      fips.status.stValid = true := by decide

theorem witness_EncrndRunsOneRound :
    (1 : BitVec 4).toNat = (1 : Fin 11).val ∧ 1 ≤ (1 : Fin 11).val ∧ (10 : BitVec 4).toNat = (10 : Fin 11).val ∧
      1 ≤ (10 : Fin 11).val ∧ fips.status.keyValid = true ∧ fips.status.stValid = true := by decide

theorem witness_DecrndRunsOneRound :
    (0 : BitVec 4).toNat = (0 : Fin 11).val ∧ (0 : Fin 11).val ≤ 9 ∧ (9 : BitVec 4).toNat = (9 : Fin 11).val ∧
      (9 : Fin 11).val ≤ 9 ∧ fips.status.keyValid = true ∧ fips.status.stValid = true := by decide

/-- The intermediate states of ENCBLK. -/
def encStates (s : State) : Nat → Mat
  | 0 => addRoundKey s.st (s.rk.get 0)
  | k + 1 =>
    let m := shiftRows (subBytes s.rom (encStates s k))
    addRoundKey (if k + 1 = 10 then m else mixColumns m) (s.rk.get (Fin.ofNat 11 (k + 1)))

theorem witness_EncblkRunsTenRounds :
    fips.status.keyValid = true ∧ fips.status.stValid = true ∧ encStates fips 0 = addRoundKey fips.st (fips.rk.get 0) ∧
    ∀ k : Fin 10, encStates fips (k.val + 1) = addRoundKey
      (if k.val + 1 = 10 then shiftRows (subBytes fips.rom (encStates fips k.val))
        else mixColumns (shiftRows (subBytes fips.rom (encStates fips k.val))))
      (fips.rk.get k.succ) :=
  ⟨rfl, rfl, rfl, fun k => by
    have h : Fin.ofNat 11 (k.val + 1) = k.succ := Fin.ext (Nat.mod_eq_of_lt (by omega))
    simp only [encStates, h]⟩

/-- The intermediate states of DECBLK, by the number of rounds done. -/
def decStates (s : State) : Nat → Mat
  | 0 => addRoundKey s.st (s.rk.get 10)
  | n + 1 =>
    let m := addRoundKey (invSubBytes s.rom (invShiftRows (decStates s n))) (s.rk.get (Fin.ofNat 11 (9 - n)))
    if 9 - n = 0 then m else invMixColumns m

theorem witness_DecblkRunsTenRounds :
    fips.status.keyValid = true ∧ fips.status.stValid = true ∧ decStates fips (10 - 10) = addRoundKey fips.st (fips.rk.get 10) ∧
    ∀ k : Fin 10, decStates fips (10 - k.val) =
      if k.val = 0 then
        addRoundKey (invSubBytes fips.rom (invShiftRows (decStates fips (10 - (k.val + 1))))) (fips.rk.get k.castSucc)
      else invMixColumns
        (addRoundKey (invSubBytes fips.rom (invShiftRows (decStates fips (10 - (k.val + 1))))) (fips.rk.get k.castSucc)) :=
  ⟨rfl, rfl, rfl, fun k => by
    have h : Fin.ofNat 11 k.val = k.castSucc := Fin.ext (Nat.mod_eq_of_lt (by omega))
    have h1 : 10 - k.val = (10 - (k.val + 1)) + 1 := by omega
    have h2 : 9 - (10 - (k.val + 1)) = k.val := by omega
    rw [h1]
    simp only [decStates, h2, h]⟩

theorem witness_StepwisePipelinesEqualBlockCommands : fips.status.keyValid = true ∧ fips.status.stValid = true := by decide
theorem witness_DecblkUndoesEncblk : fips.status.keyValid = true ∧ fips.status.stValid = true := by decide

/-- The states of ENCSTEPS. -/
def encSteps (s : State) : Nat → State
  | 0 => after (exec (.ark 0) s)
  | k + 1 => after (exec (.encrnd (BitVec.ofNat 4 (k + 1))) (encSteps s k))

/-- The states of DECSTEPS on its ciphertext, by the number of rounds done. -/
def decSteps (s : State) : Nat → State
  | 0 => after (exec (.ark 10) (encSteps s 10))
  | n + 1 => after (exec (.decrnd (BitVec.ofNat 4 (9 - n))) (decSteps s n))

theorem witness_DecryptionIntermediateStates :
    fips.status.keyValid = true ∧ fips.status.stValid = true ∧
    exec (.ark 0) fips = .next (encSteps fips 0) ∧
    (∀ k : Fin 10, exec (.encrnd (BitVec.ofNat 4 (k.val + 1))) (encSteps fips k.val) = .next (encSteps fips (k.val + 1))) ∧
    exec (.ark 10) (encSteps fips 10) = .next (decSteps fips (10 - 10)) ∧
    ∀ k : Fin 10, exec (.decrnd (BitVec.ofNat 4 k.val)) (decSteps fips (10 - (k.val + 1))) = .next (decSteps fips (10 - k.val)) :=
  ⟨rfl, rfl, exec_after _ _, fun _ => exec_after _ _, exec_after _ _, fun k => by
    have h1 : 10 - k.val = (10 - (k.val + 1)) + 1 := by omega
    have h2 : 9 - (10 - (k.val + 1)) = k.val := by omega
    rw [h1]
    show _ = Host.Outcome.next (after (exec (.decrnd (BitVec.ofNat 4 (9 - (10 - (k.val + 1))))) _))
    rw [h2]
    exact exec_after _ _⟩

theorem witness_AssembledCommandsDecode :
    assembleOpcode .ark [['5']] = some ⟨0x26000050, 0⟩ ∧ decode 0x26000050 = .command (.ark 5) := by decide

end Sys2Proof.Tests
end

section
/-! Proofs of the encoding family, part 1: the fields of a command word, the masked match of R65 read field by field, and what the
decoder accepts. -/

namespace Sys2Proof

/-! ### The fields as numbers, and a word as its fields -/

theorem CmdWord.op_toNat (w : CmdWord) : (CmdWord.op w).toNat = w.toNat / 2 ^ 24 := by
  have := w.isLt
  simp only [CmdWord.op, BitVec.extractLsb'_toNat, Nat.shiftRight_eq_div_pow]
  omega

theorem CmdWord.a_toNat (w : CmdWord) : (CmdWord.a w).toNat = w.toNat / 2 ^ 16 % 256 := by
  simp [CmdWord.a, Nat.shiftRight_eq_div_pow]

theorem CmdWord.b_toNat (w : CmdWord) : (CmdWord.b w).toNat = w.toNat / 2 ^ 8 % 256 := by
  simp [CmdWord.b, Nat.shiftRight_eq_div_pow]

theorem CmdWord.r_toNat (w : CmdWord) : (CmdWord.r w).toNat = w.toNat / 2 ^ 4 % 16 := by
  simp [CmdWord.r, Nat.shiftRight_eq_div_pow]

theorem CmdWord.z_toNat (w : CmdWord) : (CmdWord.z w).toNat = w.toNat % 16 := by
  simp [CmdWord.z]

/-- The five fields of R61 cover the word. -/
theorem CmdWord.ext_fields_iff {v w : CmdWord} :
    v = w ↔ CmdWord.op v = CmdWord.op w ∧ CmdWord.a v = CmdWord.a w ∧ CmdWord.b v = CmdWord.b w ∧ CmdWord.r v = CmdWord.r w ∧
      CmdWord.z v = CmdWord.z w := by
  constructor
  · rintro rfl
    exact ⟨rfl, rfl, rfl, rfl, rfl⟩
  · simp only [BitVec.toNat_eq, CmdWord.op_toNat, CmdWord.a_toNat, CmdWord.b_toNat, CmdWord.r_toNat, CmdWord.z_toNat]
    omega

@[simp] theorem CmdWord.op_and (v w : CmdWord) : CmdWord.op (v &&& w) = CmdWord.op v &&& CmdWord.op w :=
  BitVec.extractLsb'_and

@[simp] theorem CmdWord.a_and (v w : CmdWord) : CmdWord.a (v &&& w) = CmdWord.a v &&& CmdWord.a w :=
  BitVec.extractLsb'_and

@[simp] theorem CmdWord.b_and (v w : CmdWord) : CmdWord.b (v &&& w) = CmdWord.b v &&& CmdWord.b w :=
  BitVec.extractLsb'_and

@[simp] theorem CmdWord.r_and (v w : CmdWord) : CmdWord.r (v &&& w) = CmdWord.r v &&& CmdWord.r w :=
  BitVec.extractLsb'_and

@[simp] theorem CmdWord.z_and (v w : CmdWord) : CmdWord.z (v &&& w) = CmdWord.z v &&& CmdWord.z w :=
  BitVec.extractLsb'_and

/-! ### Which opcodes use which operand field (R64), and the masks and patterns of R65 field by field -/

/-- The opcodes that read the field A (R64). -/
abbrev Opcode.usingA : List Opcode := [.xtime, .gfmul, .sbox, .isbox]

/-- The opcodes that read the field R (R64); the field B is GFMUL's alone. -/
abbrev Opcode.usingR : List Opcode := [.ldrk, .ark, .encrnd, .decrnd]

@[simp] theorem Opcode.op_mask (o : Opcode) : CmdWord.op o.mask = BitVec.allOnes 8 := by cases o <;> rfl

@[simp] theorem Opcode.a_mask (o : Opcode) :
    CmdWord.a o.mask = if o ∈ Opcode.usingA then 0 else BitVec.allOnes 8 := by cases o <;> rfl

@[simp] theorem Opcode.b_mask (o : Opcode) : CmdWord.b o.mask = if o = .gfmul then 0 else BitVec.allOnes 8 := by
  cases o <;> rfl

@[simp] theorem Opcode.r_mask (o : Opcode) :
    CmdWord.r o.mask = if o ∈ Opcode.usingR then 0 else BitVec.allOnes 4 := by cases o <;> rfl

@[simp] theorem Opcode.z_mask (o : Opcode) : CmdWord.z o.mask = BitVec.allOnes 4 := by cases o <;> rfl

@[simp] theorem Opcode.op_pattern (o : Opcode) : CmdWord.op o.pattern = o.byte := by cases o <;> rfl

@[simp] theorem Opcode.a_pattern (o : Opcode) : CmdWord.a o.pattern = 0 := by cases o <;> rfl

@[simp] theorem Opcode.b_pattern (o : Opcode) : CmdWord.b o.pattern = 0 := by cases o <;> rfl

@[simp] theorem Opcode.r_pattern (o : Opcode) : CmdWord.r o.pattern = 0 := by cases o <;> rfl

@[simp] theorem Opcode.z_pattern (o : Opcode) : CmdWord.z o.pattern = 0 := by cases o <;> rfl

/-- A field under a mask that is either empty or full. -/
theorem and_ite_allOnes_eq_zero_iff {n : Nat} (p : Prop) [Decidable p] (x : BitVec n) :
    x &&& (if p then 0 else BitVec.allOnes n) = 0 ↔ (¬ p → x = 0) := by
  by_cases h : p <;> simp [h]

/-- The legal spellings of R65, field by field: the opcode's OP value, Z zero, and zero in each field the opcode does not use. -/
theorem maskedMatch_iff (w : CmdWord) (o : Opcode) :
    w &&& o.mask = o.pattern ↔
      CmdWord.op w = o.byte ∧ (o ∉ Opcode.usingA → CmdWord.a w = 0) ∧ (o ≠ .gfmul → CmdWord.b w = 0) ∧
      (o ∉ Opcode.usingR → CmdWord.r w = 0) ∧ CmdWord.z w = 0 := by
  simp only [CmdWord.ext_fields_iff, CmdWord.op_and, CmdWord.a_and, CmdWord.b_and, CmdWord.r_and, CmdWord.z_and,
    Opcode.op_mask, Opcode.a_mask, Opcode.b_mask, Opcode.r_mask, Opcode.z_mask, Opcode.op_pattern, Opcode.a_pattern,
    Opcode.b_pattern, Opcode.r_pattern, Opcode.z_pattern, BitVec.and_allOnes, and_ite_allOnes_eq_zero_iff, ne_eq]

/-! ### The opcode map's gaps (R67) -/

/-- The five ranges of illegal OP values (R67). -/
def illegalOp (op : Nat) : Bool :=
  (0x05 ≤ op && op ≤ 0x0F) || (0x14 ≤ op && op ≤ 0x1F) || (0x27 ≤ op && op ≤ 0x2F) || (0x32 ≤ op && op ≤ 0x37) ||
    (0x3A ≤ op && op ≤ 0xFF)

set_option maxRecDepth 2000 in
/-- The five ranges hold 236 values (R67). -/
theorem length_filter_illegalOp : ((List.range 256).filter illegalOp).length = 236 := by decide

/-- The opcode map names an opcode at every value outside the five ranges and at none inside. -/
theorem Opcode.ofByte_eq_none_iff (v : Byte) : Opcode.ofByte v = none ↔ illegalOp v.toNat = true := by
  have hv := v.isLt
  unfold Opcode.ofByte
  split
  case h_21 =>
    simp only [imp_false] at *
    simp only [illegalOp, Bool.or_eq_true, Bool.and_eq_true, decide_eq_true_eq, true_iff]
    omega
  all_goals simp [illegalOp, *]

/-! ### The decoder, one equation per check of R66 -/

@[simp] theorem Opcode.opcode_command (o : Opcode) (w : CmdWord) : (o.command w).opcode = o := by cases o <;> rfl

theorem decode_of_illegalOp {w : CmdWord} (h : illegalOp (w.toNat / 2 ^ 24) = true) : decode w = .rejected .errOpcode := by
  rw [← CmdWord.op_toNat, ← Opcode.ofByte_eq_none_iff] at h
  simp [decode, h]

theorem decode_of_op {w : CmdWord} {o : Opcode} (h : CmdWord.op w = o.byte) :
    decode w = if w &&& o.mask = o.pattern then .command (o.command w) else .rejected .errRsv := by
  simp [decode, h]

/-- An OP value outside the five ranges is an opcode's. -/
theorem exists_opcode_of_legalOp {w : CmdWord} (h : illegalOp (w.toNat / 2 ^ 24) = false) :
    ∃ o : Opcode, CmdWord.op w = o.byte := by
  have hn : Opcode.ofByte (CmdWord.op w) ≠ none := by
    rw [Ne, Opcode.ofByte_eq_none_iff, CmdWord.op_toNat, h]
    simp
  obtain ⟨o, ho⟩ := Option.ne_none_iff_exists'.mp hn
  exact ⟨o, Opcode.ofByte_eq_some.mp ho⟩

/-- The decoder accepts a word as a command exactly when the word matches the pattern of the command's opcode and the command is
what that opcode makes of the word. -/
theorem decode_eq_command_iff {w : CmdWord} {i : Instr} :
    decode w = .command i ↔ w &&& i.opcode.mask = i.opcode.pattern ∧ i.opcode.command w = i := by
  constructor
  · intro h
    cases hl : illegalOp (w.toNat / 2 ^ 24) with
    | true => simp [decode_of_illegalOp hl] at h
    | false =>
      obtain ⟨o, ho⟩ := exists_opcode_of_legalOp hl
      rw [decode_of_op ho] at h
      split at h
      next hm =>
        injection h with h
        subst h
        simpa using hm
      next => simp at h
  · rintro ⟨hm, hi⟩
    rw [decode_of_op ((maskedMatch_iff _ _).mp hm).1, if_pos hm, hi]

/-! ### The encoder on a decoded word -/

/-- The encoder on the command an opcode makes of a word: the operand fields in use are the word's own, the others zero. -/
theorem encode_command (o : Opcode) (w : CmdWord) :
    encode (o.command w) = CmdWord.ofFields o.byte (if o ∈ Opcode.usingA then CmdWord.a w else 0)
      (if o = .gfmul then CmdWord.b w else 0) (if o ∈ Opcode.usingR then CmdWord.r w else 0) := by
  cases o <;> rfl

/-- An accepted word is the one spelling of its command (R67). -/
theorem encode_of_decode {w : CmdWord} {i : Instr} (h : decode w = .command i) : encode i = w := by
  obtain ⟨hm, hi⟩ := decode_eq_command_iff.mp h
  obtain ⟨hop, ha, hb, hr, hz⟩ := (maskedMatch_iff _ _).mp hm
  rw [← hi, encode_command, ite_eq_left_iff.mpr fun h => (ha h).symm, ite_eq_left_iff.mpr fun h => (hb h).symm,
    ite_eq_left_iff.mpr fun h => (hr h).symm, ← hop, ← CmdWord.eq_ofFields w hz]

end Sys2Proof
end

section
/-! Proofs of the encoding family, part 2: the rejected words (R67, R68). -/

namespace Sys2Proof.Machine

/-- A word the decoder rejects is answered by its code, with R185's whole frame. -/
theorem transact_of_rejected {w : CmdWord} {code : RspCode} (h : decode w = .rejected code) (d : BusWord)
    (s : State) :
    transact w d s = .next { s with
      cmdLatch := w, dinLatch := d, status := { s.status with err := true, lastCode := code }, phase := .done code } := by
  simp only [transact, perform, State.accept_cmdLatch, h, fail_eq]
  rfl

/-- Settles O5: OP values inside the five ranges name no opcode, the others name one, and an accepted word is its command's
encoding. -/
theorem illegalOpcodesAreRejected : Obligations.IllegalOpcodesAreRejected := by
  refine ⟨length_filter_illegalOp, fun w d s => ⟨fun h => transact_of_rejected (decode_of_illegalOp h) d s, fun h => ?_⟩⟩
  obtain ⟨o, ho⟩ := exists_opcode_of_legalOp h
  by_cases hm : w &&& o.mask = o.pattern
  · have hd : decode w = .command (o.command w) := by rw [decode_of_op ho, if_pos hm]
    exact .inl ⟨_, hd, encode_of_decode hd⟩
  · exact .inr (by rw [decode_of_op ho, if_neg hm])

/-- Settles O6: a non-zero bit in a field that the opcode's mask covers breaks the masked match. -/
theorem reservedFieldsAreRejected : Obligations.ReservedFieldsAreRejected := by
  intro w d s o hop hbits
  have ho : CmdWord.op w = o.byte := BitVec.eq_of_toNat_eq ((CmdWord.op_toNat w).trans hop)
  have hm : ¬ w &&& o.mask = o.pattern := by
    rw [maskedMatch_iff]
    rintro ⟨-, ha, hb, hr, hz⟩
    simp only [BitVec.toNat_eq, CmdWord.a_toNat, CmdWord.b_toNat, CmdWord.r_toNat, CmdWord.z_toNat, BitVec.ofNat_eq_ofNat,
      BitVec.toNat_ofNat, Nat.zero_mod] at ha hb hr hz
    rcases hbits with h | ⟨h, hn⟩ | ⟨h, hn⟩ | ⟨h, hn⟩
    · exact h hz
    · exact h (ha hn)
    · exact h (hb hn)
    · exact h (hr hn)
  exact transact_of_rejected (by rw [decode_of_op ho, if_neg hm]) d s

end Sys2Proof.Machine
end

section
/-! Proofs of the encoding family, part 3: what a command does with the sampled din (R63). -/

namespace Sys2Proof.Machine

/-- `s` with another sampled din. -/
def State.withDin (d : BusWord) (s : State) : State := { s with dinLatch := d }

/-- An outcome with another sampled din in its next state. -/
def outcomeWithDin (d : BusWord) : Outcome → Outcome
  | .next t => .next (t.withDin d)
  | .fault f => .fault f
  | .refused r => .refused r

@[simp] theorem State.withDin_cmdLatch (d : BusWord) (s : State) : (s.withDin d).cmdLatch = s.cmdLatch := rfl

theorem State.accept_withDin (w : CmdWord) (d d' : BusWord) (s : State) : s.accept w d' = (s.accept w d).withDin d' := rfl

/-! ### The checks do not look at din -/

/-- A ranged command whose body passes din through passes din through. -/
theorem requireRange_withDin {α : Type} (d : BusWord) (operand : Option α) (s : State) {body body' : α → Outcome}
    (h : ∀ v, body' v = outcomeWithDin d (body v)) :
    requireRange operand (s.withDin d) body' = outcomeWithDin d (requireRange operand s body) := by
  cases operand with
  | some v => exact h v
  | none => rfl

theorem requireKey_withDin (d : BusWord) (s : State) (body : Outcome) :
    requireKey (s.withDin d) (outcomeWithDin d body) = outcomeWithDin d (requireKey s body) := by
  cases h : s.status.keyValid with
  | true => rw [requireKey_of_valid h, requireKey_of_valid (s := s.withDin d) h]
  | false => rw [requireKey_of_invalid h, requireKey_of_invalid (s := s.withDin d) h]; rfl

theorem requireState_withDin (d : BusWord) (s : State) (body : Outcome) :
    requireState (s.withDin d) (outcomeWithDin d body) = outcomeWithDin d (requireState s body) := by
  cases h : s.status.stValid with
  | true => rw [requireState_of_valid h, requireState_of_valid (s := s.withDin d) h]
  | false => rw [requireState_of_invalid h, requireState_of_invalid (s := s.withDin d) h]; rfl

theorem transformSt_withDin (d : BusWord) (f : Mat → Mat) (s : State) :
    transformSt f (s.withDin d) = outcomeWithDin d (transformSt f s) :=
  requireState_withDin d s (complete (s.writeSt (f s.st)))

theorem transformStWithKeys_withDin (d : BusWord) (f : Mat → Mat) (s : State) :
    transformStWithKeys f (s.withDin d) = outcomeWithDin d (transformStWithKeys f s) :=
  (congrArg (requireKey (s.withDin d)) (requireState_withDin d s (complete (s.writeSt (f s.st))))).trans
    (requireKey_withDin d s (requireState s (complete (s.writeSt (f s.st)))))

/-! ### The commands and din -/

/-- Every command but LDST and KEYEXP passes the sampled din through and computes the same without it. -/
theorem exec_withDin {i : Instr} (hl : i ≠ .ldst) (hk : i ≠ .keyexp) (d : BusWord) (s : State) :
    exec i (s.withDin d) = outcomeWithDin d (exec i s) := by
  cases i with
  | ldst => exact absurd rfl hl
  | keyexp => exact absurd rfl hk
  | nop | keyfix | xtime a | sbox a | isbox a => rfl
  | ldrk r => exact requireRange_withDin d _ s fun j => requireKey_withDin d s (complete (s.loadSt (s.roundKeyAt j)))
  | gfmul a b => exact requireRange_withDin d _ s fun _ => rfl
  | subb | isubb | shrow | ishrow | mixcol | imixcol => exact transformSt_withDin d _ s
  | ark r | encrnd r | decrnd r => exact requireRange_withDin d _ s fun _ => transformStWithKeys_withDin d _ s
  | encblk | decblk => exact transformStWithKeys_withDin d _ s

/-- A sampled word that is neither LDST nor KEYEXP is performed without din. -/
theorem perform_withDin {s : State} (hl : decode s.cmdLatch ≠ .command .ldst) (hk : decode s.cmdLatch ≠ .command .keyexp)
    (d : BusWord) : perform (s.withDin d) = outcomeWithDin d (perform s) := by
  cases h : decode s.cmdLatch with
  | rejected code =>
    rw [perform, perform, State.withDin_cmdLatch, h]
    rfl
  | command i =>
    rw [perform, perform, State.withDin_cmdLatch, h]
    exact exec_withDin (by rintro rfl; exact hl h) (by rintro rfl; exact hk h) d s

theorem transact_withDin {w : CmdWord} {d : BusWord} {s t : State} (hl : decode w ≠ .command .ldst)
    (hk : decode w ≠ .command .keyexp) (h : transact w d s = .next t) (d' : BusWord) :
    transact w d' s = .next { t with dinLatch := d' } := by
  unfold transact at h ⊢
  rw [State.accept_withDin w d d', perform_withDin (s := s.accept w d) hl hk, h]
  rfl

/-- LDST and KEYEXP end OK, whatever din holds. -/
theorem transact_lastCode_of_readsDin {w : CmdWord} {d : BusWord} {s t : State}
    (hw : decode w = .command .ldst ∨ decode w = .command .keyexp) (h : transact w d s = .next t) :
    t.status.lastCode = .ok := by
  rcases hw with hw | hw <;>
  · simp only [transact, perform, State.accept_cmdLatch, hw] at h
    injection h with h
    rw [← h]
    rfl

/-- An accepted word carries its command's OP value. -/
theorem op_of_decode {w : CmdWord} {i : Instr} (h : decode w = .command i) : w.toNat / 2 ^ 24 = i.opcode.byte.toNat := by
  have hop := ((maskedMatch_iff _ _).mp (decode_eq_command_iff.mp h).1).1
  rw [← CmdWord.op_toNat, hop]

/-- Settles O31: LDST and KEYEXP alone read din, and they end OK. -/
theorem onlyLdstAndKeyexpReadDin : Obligations.OnlyLdstAndKeyexpReadDin := by
  intro w d d' s t h
  refine ⟨fun h1 h2 => ?_, fun t' h' => ?_⟩
  · exact transact_withDin (fun e => h1 (op_of_decode e)) (fun e => h2 (op_of_decode e)) h d'
  · by_cases hw : decode w = .command .ldst ∨ decode w = .command .keyexp
    · rw [transact_lastCode_of_readsDin hw h, transact_lastCode_of_readsDin hw h']
    · obtain ⟨hl, hk⟩ := not_or.mp hw
      have e := h'.symm.trans (transact_withDin hl hk h d')
      injection e with e
      rw [e]

end Sys2Proof.Machine
end

section
/-! Proofs of the field and table family, part 1: the laws of the doubling and of FieldMultiply (R80, R81, R84), and XTIME
and GFMUL. -/

namespace Sys2Proof.Machine

/-! ### The doubling and the selection -/

/-- The doubling as one formula (R80). -/
theorem xtime_eq (v : Byte) : xtime v = (v <<< 1) ^^^ (if v.getLsbD 7 then 0x1B else 0x00) := by
  unfold xtime
  split <;> simp

@[simp] theorem selected_true (d : Byte) : selected true d = d := rfl

@[simp] theorem selected_false (d : Byte) : selected false d = 0 := rfl

/-- A byte selected by the XOR of two bits. -/
theorem selected_bit_xor (p q : Bool) (d : Byte) : selected (p ^^ q) d = selected p d ^^^ selected q d := by
  cases p <;> cases q <;> simp

/-! ### FieldMultiply -/

theorem fieldMultiply_eq (a b : Byte) :
    fieldMultiply a b = selected (a.getLsbD 0) b ^^^ selected (a.getLsbD 1) (xtime b) ^^^
      selected (a.getLsbD 2) (xtime (xtime b)) ^^^ selected (a.getLsbD 3) (xtime (xtime (xtime b))) := rfl

theorem zero_fieldMultiply (x : Byte) : fieldMultiply 0 x = 0 := by simp [fieldMultiply_eq]

theorem one_fieldMultiply (x : Byte) : fieldMultiply 1 x = x := by simp [fieldMultiply_eq]

theorem two_fieldMultiply (x : Byte) : fieldMultiply 2 x = xtime x := by simp [fieldMultiply_eq]

/-- FieldMultiply is linear over XOR in its second argument. -/
theorem fieldMultiply_xor (a x y : Byte) : fieldMultiply a (x ^^^ y) = fieldMultiply a x ^^^ fieldMultiply a y := by
  simp only [fieldMultiply_eq, xtime_xor, selected_xor]
  ac_rfl

/-- FieldMultiply is linear over XOR in its first argument. -/
theorem xor_fieldMultiply (a c x : Byte) : fieldMultiply (a ^^^ c) x = fieldMultiply a x ^^^ fieldMultiply c x := by
  simp only [fieldMultiply_eq, BitVec.getLsbD_xor, selected_bit_xor]
  ac_rfl

theorem three_fieldMultiply (x : Byte) : fieldMultiply 3 x = xtime x ^^^ x := by
  have h : (3 : Byte) = 2 ^^^ 1 := rfl
  rw [h, xor_fieldMultiply, two_fieldMultiply, one_fieldMultiply]

/-- Settles O45: the laws of the constants, and linearity in each argument. -/
theorem fieldMultiplyLaws : Obligations.FieldMultiplyLaws := fun a c x y _ _ =>
  ⟨one_fieldMultiply x, zero_fieldMultiply x, two_fieldMultiply x, fieldMultiply_xor a x y, xor_fieldMultiply a c x,
    three_fieldMultiply x⟩

/-! ### XTIME and GFMUL -/

/-- The coefficients of R91 are the bytes below 16. -/
theorem coefficient_eq_some {a : Byte} (h : a.toNat < 16) : coefficient a = some a := by
  have hz : a.extractLsb' 4 4 = 0 := by
    apply BitVec.eq_of_toNat_eq
    simp only [BitVec.extractLsb'_toNat, Nat.shiftRight_eq_div_pow, BitVec.ofNat_eq_ofNat, BitVec.toNat_ofNat]
    omega
  rw [coefficient, if_pos hz]

theorem exec_gfmul {a : Byte} (h : a.toNat < 16) (b : Byte) (s : State) :
    exec (.gfmul a b) s = .next (s.writeY (fieldMultiply a b)).completeOk := by
  change execGfmul a b s = _
  rw [execGfmul, coefficient_eq_some h, requireRange_some, complete_eq]

/-- Settles O41: XTIME writes the doubling to Y. -/
theorem xtimeDoublesIntoY : Obligations.XtimeDoublesIntoY := by
  intro a s
  rw [← xtime_eq]
  rfl

/-- A sequence of doublings runs through FieldMultiply's own (R81). -/
theorem fieldMultiply_eq_of_doublings {d : Nat → Byte}
    (hd : ∀ k, d (k + 1) = (d k <<< 1) ^^^ (if (d k).getLsbD 7 then 0x1B else 0x00)) (a : Byte) :
    fieldMultiply a (d 0) = (if a.getLsbD 0 then d 0 else 0) ^^^ (if a.getLsbD 1 then d 1 else 0) ^^^
      (if a.getLsbD 2 then d 2 else 0) ^^^ (if a.getLsbD 3 then d 3 else 0) := by
  have hx (k : Nat) : d (k + 1) = xtime (d k) := (hd k).trans (xtime_eq (d k)).symm
  rw [hx 2, hx 1, hx 0]
  rfl

/-- Settles O42: the doublings of `b` are FieldMultiply's own, and GFMUL writes their sum to Y. -/
theorem gfmulSumsSelectedDoublings : Obligations.GfmulSumsSelectedDoublings := by
  rintro a b d rfl hd
  have hsum := fieldMultiply_eq_of_doublings hd a
  refine ⟨hsum, fun s ha => ?_⟩
  rw [exec_gfmul ha, hsum]
  rfl

end Sys2Proof.Machine
end

section
/-! Proofs of the field and table family, part 2: FieldMultiply is the product in GF(2)[X] modulo x^8+x^4+x^3+x+1 (R82). -/

namespace Sys2Proof.Machine

open Polynomial

/-- The polynomial of a byte: bit i is the coefficient of x^i (R8). -/
noncomputable def bytePoly (v : Byte) : (ZMod 2)[X] := ∑ i ∈ Finset.range 8, if v.getLsbD i then X ^ i else 0

/-- x^8+x^4+x^3+x+1 (R82). -/
noncomputable def modulus : (ZMod 2)[X] := X ^ 8 + X ^ 4 + X ^ 3 + X + 1

/-- A byte's residue class modulo `modulus`: there FieldMultiply's congruence is an equation. -/
noncomputable def residue (v : Byte) : AdjoinRoot modulus := AdjoinRoot.mk modulus (bytePoly v)

/-! ### The polynomial of a byte -/

/-- XOR is addition of polynomials over GF(2). -/
theorem bytePoly_xor (u v : Byte) : bytePoly (u ^^^ v) = bytePoly u + bytePoly v := by
  have hterm (p q : Bool) (c : (ZMod 2)[X]) :
      (if p ^^ q then c else 0) = (if p then c else 0) + (if q then c else 0) := by
    cases p <;> cases q <;> simp [CharTwo.add_self_eq_zero]
  simp only [bytePoly, BitVec.getLsbD_xor, hterm, Finset.sum_add_distrib]

/-- The left shift multiplies by x and loses the term x^8. -/
theorem X_mul_bytePoly (v : Byte) : X * bytePoly v = bytePoly (v <<< 1) + if v.getLsbD 7 then X ^ 8 else 0 := by
  have hshift (i : Nat) (hi : i ∈ Finset.range 7) : (v <<< 1).getLsbD (i + 1) = v.getLsbD i := by
    have hlt : i + 1 < 8 := Nat.succ_lt_succ (Finset.mem_range.mp hi)
    rw [BitVec.getLsbD_shiftLeft, Nat.add_sub_cancel]
    simp [hlt, -BitVec.getLsbD_eq_getElem]
  have hlow : bytePoly (v <<< 1) = ∑ i ∈ Finset.range 7, if v.getLsbD i then X ^ (i + 1) else 0 := by
    rw [bytePoly, Finset.sum_range_succ', Finset.sum_congr rfl fun i hi => by rw [hshift i hi]]
    simp
  rw [hlow, bytePoly, Finset.mul_sum, Finset.sum_range_succ]
  simp only [mul_ite, mul_zero, ← pow_succ']

/-- The byte XORed in where the shift loses x^8 is the modulus without that term. -/
theorem modulus_eq : modulus = X ^ 8 + bytePoly 0x1B := by
  have h : bytePoly 0x1B = X ^ 4 + X ^ 3 + X + 1 := by
    simp [bytePoly, Finset.sum_range_succ]
    ring
  rw [h, modulus]
  ring

/-- A coefficient below 16 has the terms up to x^3 alone. -/
theorem bytePoly_coefficient {a : Byte} (h : a.extractLsb' 4 4 = 0) :
    bytePoly a = ∑ i ∈ Finset.range 4, if a.getLsbD i then X ^ i else 0 := by
  have hhigh (i : Nat) (hi : i < 4) : a.getLsbD (4 + i) = false := by
    simpa [BitVec.getLsbD_extractLsb', hi] using congrArg (BitVec.getLsbD · i) h
  rw [bytePoly, Finset.sum_range_add _ 4 4, add_eq_left]
  exact Finset.sum_eq_zero fun i hi => by simp [hhigh i (Finset.mem_range.mp hi)]

/-! ### Residue classes -/

theorem residue_xor (u v : Byte) : residue (u ^^^ v) = residue u + residue v := by
  rw [residue, bytePoly_xor, map_add]
  rfl

/-- Doubling a byte multiplies its class by the class of x (R80): the byte 0x1B stands for the lost x^8. -/
theorem residue_xtime (v : Byte) : residue (xtime v) = AdjoinRoot.root modulus * residue v := by
  have hlost : AdjoinRoot.mk modulus (X ^ 8) = residue 0x1B := by
    rw [residue, AdjoinRoot.mk_eq_mk, CharTwo.sub_eq_add, ← modulus_eq]
  rw [residue, residue, ← AdjoinRoot.mk_X, ← map_mul, X_mul_bytePoly, map_add, xtime_eq, bytePoly_xor, map_add]
  congr 1
  split
  · exact hlost.symm
  · simp [bytePoly]

theorem residue_selected (p : Bool) (d : Byte) : residue (selected p d) = (if p then 1 else 0) * residue d := by
  cases p
  · simp [residue, bytePoly]
  · simp

/-- For a coefficient below 16, FieldMultiply multiplies the classes. -/
theorem residue_fieldMultiply {a : Byte} (h : a.extractLsb' 4 4 = 0) (b : Byte) :
    residue (fieldMultiply a b) = residue a * residue b := by
  have ha : residue a = ∑ i ∈ Finset.range 4, (if a.getLsbD i then 1 else 0) * AdjoinRoot.root modulus ^ i := by
    simp only [residue, bytePoly_coefficient h, map_sum, apply_ite (AdjoinRoot.mk modulus), map_pow, AdjoinRoot.mk_X,
      map_zero, ite_mul, one_mul, zero_mul]
  rw [ha, fieldMultiply_eq]
  simp only [residue_xor, residue_selected, residue_xtime, Finset.sum_range_succ, Finset.sum_range_zero]
  ring

/-- Settles O44: the congruence is equality of residue classes. -/
theorem fieldMultiplyIsTheFieldProduct : Obligations.FieldMultiplyIsTheFieldProduct := by
  intro a b h
  have hclass : AdjoinRoot.mk modulus (bytePoly a * bytePoly b) = AdjoinRoot.mk modulus (bytePoly (fieldMultiply a b)) :=
    (map_mul ..).trans (residue_fieldMultiply h b).symm
  exact AdjoinRoot.mk_eq_mk.mp hclass

end Sys2Proof.Machine
end

section
/-! Proofs of the field and table family, part 3: the two substitution tables (R88). -/

namespace Sys2Proof.Machine

/-- INV_SBOX undoes SBOX, by looking at all 256 entries. -/
theorem invSboxAt_leftInverse (rom : Rom) : Function.LeftInverse rom.invSboxAt rom.sboxAt := by
  rw [rom.eq_contents]
  unfold Function.LeftInverse
  decide

/-- A left inverse on the finite set of bytes is a right inverse. -/
theorem invSboxAt_rightInverse (rom : Rom) : Function.RightInverse rom.invSboxAt rom.sboxAt :=
  (invSboxAt_leftInverse rom).rightInverse_of_card_le le_rfl

/-- SBOX maps no byte to itself or to its complement, by looking at all 256 entries. -/
theorem sboxAt_ne (rom : Rom) (v : Byte) : rom.sboxAt v ≠ v ∧ rom.sboxAt v ≠ v ^^^ 0xFF := by
  rw [rom.eq_contents]
  revert v
  decide

/-- Settles O46: the tables are inverse on both sides, and SBOX has no fixed point and no point it complements. -/
theorem tablesAreInversePermutations : Obligations.TablesAreInversePermutations := fun rom v =>
  ⟨invSboxAt_leftInverse rom v, invSboxAt_rightInverse rom v, sboxAt_ne rom v⟩

end Sys2Proof.Machine
end

section
/-! Proofs of the key-schedule family: the round constants (R100), the expansion cell by cell (R101 to R103), and KEYEXP
(R104). -/

namespace Sys2Proof.Machine

/-! ### The round constants -/

/-- Each round constant is the double of the one before, by looking at the ten entries. -/
theorem rconAt_succ (rom : Rom) {j : Nat} (h1 : 1 ≤ j) (h10 : j < 10) : rom.rconAt (j + 1) = xtime (rom.rconAt j) := by
  rw [rom.eq_contents]
  interval_cases j <;> decide

/-- Settles O40: the ROM is hard-wired to the table of R100. -/
theorem roundConstantsAreDoublings : Obligations.RoundConstantsAreDoublings := by
  intro rom
  obtain rfl := rom.eq_contents
  exact ⟨rfl, rfl, fun _ => rconAt_succ _, rfl⟩

/-! ### One column of the expansion -/

@[simp] theorem Col.get_xor (t u : Col) (k : Fin 4) : (t.xor u).get k = t.get k ^^^ u.get k := by
  fin_cases k <;> rfl

/-- The rotation brings each cell up one row (R101). -/
@[simp] theorem rot_get (t : Col) (r : Fin 4) : (rot t).get r = t.get (r + 1) := by
  fin_cases r <;> rfl

/-- `ksCore`: the table entry of each rotated cell, with the round constant in row 0 alone (R102). -/
theorem ksCore_get (rom : Rom) (rnd : Nat) (t : Col) (r : Fin 4) :
    (ksCore rom rnd t).get r = rom.sboxAt (t.get (r + 1)) ^^^ if r = 0 then rom.rconAt rnd else 0 := by
  have hsub : (ksCore rom rnd t).get r = rom.sboxAt ((rot t).get r) ^^^ if r = 0 then rom.rconAt rnd else 0 := by
    match r with
    | 0 => rfl
    | 1 | 2 | 3 => exact BitVec.xor_zero.symm
  rw [hsub, rot_get]

/-! ### One round key from the one before -/

theorem nextRoundKey_get_zero (rom : Rom) (rnd : Nat) (prev : Mat) (r : Fin 4) :
    (nextRoundKey rom rnd prev).get r 0 =
      prev.get r 0 ^^^ (rom.sboxAt (prev.get (r + 1) 3) ^^^ if r = 0 then rom.rconAt rnd else 0) :=
  (Col.get_xor (prev.col 0) (ksCore rom rnd (prev.col 3)) r).trans (congrArg _ (ksCore_get rom rnd (prev.col 3) r))

theorem nextRoundKey_get_succ (rom : Rom) (rnd : Nat) (prev : Mat) (r : Fin 4) (j : Fin 3) :
    (nextRoundKey rom rnd prev).get r j.succ = prev.get r j.succ ^^^ (nextRoundKey rom rnd prev).get r j.castSucc := by
  have hcol : (nextRoundKey rom rnd prev).col j.succ =
      (prev.col j.succ).xor ((nextRoundKey rom rnd prev).col j.castSucc) := by
    fin_cases j <;> rfl
  exact (congrArg (Col.get · r) hcol).trans (Col.get_xor ..)

/-! ### The whole expansion -/

@[simp] theorem expandKey_get (rom : Rom) (key : Buf) (n : Fin 11) : (expandKey rom key).get n = roundKey rom key n := by
  fin_cases n <;> rfl

theorem expandKey_get_succ (rom : Rom) (key : Buf) (n : Fin 10) :
    (expandKey rom key).get n.succ = nextRoundKey rom (n + 1) ((expandKey rom key).get n.castSucc) := by
  rw [expandKey_get, expandKey_get, Fin.val_succ, Fin.val_castSucc, roundKey]

/-- ExpandKey meets R103's description of the round keys. -/
theorem isKeySchedule_expandKey (rom : Rom) (key : BusWord) : IsKeySchedule rom key (expandKey rom (bytes key)) where
  first r c := by
    rw [expandKey_get, Fin.val_zero, roundKey, mat_get, Nat.add_comm]
    rfl
  column0 n r := by rw [expandKey_get_succ, nextRoundKey_get_zero]
  column n r j := by rw [expandKey_get_succ, nextRoundKey_get_succ]

theorem exec_keyexp (s : State) :
    exec .keyexp s = .next (s.loadKeys (expandKey s.rom (bytes s.dinLatch))).completeOk := rfl

/-- Settles O36: KEYEXP loads the expansion of the sampled din, and the frame is that of `loadKeys` and `completeOk`. -/
theorem keyexpExpandsDin : Obligations.KeyexpExpandsDin := fun s =>
  ⟨_, exec_keyexp s, isKeySchedule_expandKey s.rom s.dinLatch, rfl⟩

end Sys2Proof.Machine
end

section
/-! Proofs of the round-unit family, part 1: each primitive cell by cell, and the commands that apply one primitive to ST
(R120 to R124, R130 to R136). -/

namespace Sys2Proof.Machine

/-! ### The cells of a primitive's result -/

@[simp] theorem subBytes_get (rom : Rom) (m : Mat) (r c : Fin 4) :
    (subBytes rom m).get r c = rom.sboxAt (m.get r c) := Mat.get_ofFn ..

@[simp] theorem invSubBytes_get (rom : Rom) (m : Mat) (r c : Fin 4) :
    (invSubBytes rom m).get r c = rom.invSboxAt (m.get r c) := Mat.get_ofFn ..

@[simp] theorem shiftRows_get (m : Mat) (r c : Fin 4) : (shiftRows m).get r c = m.get r (c + r) := Mat.get_ofFn ..

@[simp] theorem invShiftRows_get (m : Mat) (r c : Fin 4) : (invShiftRows m).get r c = m.get r (c - r) := Mat.get_ofFn ..

@[simp] theorem mixColumns_get (m : Mat) (r c : Fin 4) : (mixColumns m).get r c = mixCell 2 3 1 1 (m.col c) r :=
  Mat.get_ofFn ..

@[simp] theorem invMixColumns_get (m : Mat) (r c : Fin 4) :
    (invMixColumns m).get r c = mixCell 14 11 13 9 (m.col c) r := Mat.get_ofFn ..

@[simp] theorem addRoundKey_get (m k : Mat) (r c : Fin 4) : (addRoundKey m k).get r c = m.get r c ^^^ k.get r c :=
  Mat.get_ofFn ..

/-! ### The commands on ST alone -/

/-- A primitive whose result has the cells `cell` leaves them in ST, and nothing else but LAST_CODE and the handshake
changes. -/
theorem transformSt_of_cells {s : State} (hs : s.status.stValid = true) {f : Mat → Mat} {cell : Fin 4 → Fin 4 → Byte}
    (hf : ∀ r c, (f s.st).get r c = cell r c) :
    ∃ t, transformSt f s = .next t ∧ (∀ r c, t.st.get r c = cell r c) ∧
      t = { s with st := t.st, status := { s.status with lastCode := .ok }, phase := .done .ok } :=
  ⟨_, transformSt_of_valid hs f, hf, rfl⟩

/-- Settles O48: the two substitutions, cell by cell. -/
theorem subbAndIsubbSubstituteEveryCell : Obligations.SubbAndIsubbSubstituteEveryCell := fun s hs =>
  ⟨transformSt_of_cells hs (subBytes_get s.rom s.st), transformSt_of_cells hs (invSubBytes_get s.rom s.st)⟩

/-- The difference of two columns as R121 counts it: `(c + 4 - r) mod 4`. -/
theorem col_sub_eq (r c : Fin 4) : c - r = ⟨(c.val + 4 - r.val) % 4, Nat.mod_lt _ (by decide)⟩ := by
  apply Fin.ext
  rw [Fin.val_sub]
  dsimp only
  omega

/-- Settles O49: adding columns is addition modulo 4. -/
theorem shrowAndIshrowRotateRows : Obligations.ShrowAndIshrowRotateRows := fun s hs =>
  ⟨transformSt_of_cells hs (shiftRows_get s.st),
    transformSt_of_cells hs fun r c => by rw [invShiftRows_get, col_sub_eq]⟩

/-- Settles O50: a cell of the product is `mixCell` of its column. -/
theorem mixcolAndImixcolMultiplyColumns : Obligations.MixcolAndImixcolMultiplyColumns := fun s hs =>
  ⟨transformSt_of_cells hs (mixColumns_get s.st), transformSt_of_cells hs (invMixColumns_get s.st)⟩

/-! ### ARK -/

theorem keyIndex_of_toNat_eq {r : BitVec 4} {k : Fin 11} (hr : r.toNat = k.val) : keyIndex r = some k :=
  (keyIndex_eq_some (hr ▸ k.isLt)).trans (congrArg some (Fin.ext hr))

theorem exec_ark {r : BitVec 4} {k : Fin 11} {s : State} (hr : r.toNat = k.val) (hk : s.status.keyValid = true)
    (hs : s.status.stValid = true) : exec (.ark r) s = .next (s.writeSt (addRoundKey s.st (s.rk.get k))).completeOk := by
  change execArk r s = _
  rw [execArk, keyIndex_of_toNat_eq hr, requireRange_some, transformStWithKeys_of_valid hk hs]
  rfl

/-- A round key added twice cancels (R124). -/
@[simp] theorem addRoundKey_addRoundKey (m k : Mat) : addRoundKey (addRoundKey m k) k = m :=
  Mat.ext_get fun r c => by rw [addRoundKey_get, addRoundKey_get, xor_cancel_right]

/-- Settles O51: ARK adds the key, and the second ARK meets the same key in RK. -/
theorem arkAddsARoundKey : Obligations.ArkAddsARoundKey := by
  intro r k s hr hk hs
  refine ⟨_, exec_ark hr hk hs, addRoundKey_get s.st (s.rk.get k), rfl, ?_⟩
  have htwice := exec_ark (s := (s.writeSt (addRoundKey s.st (s.rk.get k))).completeOk) hr hk hs
  rwa [State.completeOk_st, State.completeOk_rk, State.writeSt_st, State.writeSt_rk, addRoundKey_addRoundKey] at htwice

end Sys2Proof.Machine
end

section
/-! Proofs of the round-unit family, part 2: the inverse primitives undo the forward ones (R125). -/

namespace Sys2Proof.Machine

/-! ### Substitution and rotation -/

@[simp] theorem invSubBytes_subBytes (rom : Rom) (m : Mat) : invSubBytes rom (subBytes rom m) = m :=
  Mat.ext_get fun r c => by rw [invSubBytes_get, subBytes_get, invSboxAt_leftInverse]

@[simp] theorem subBytes_invSubBytes (rom : Rom) (m : Mat) : subBytes rom (invSubBytes rom m) = m :=
  Mat.ext_get fun r c => by rw [subBytes_get, invSubBytes_get, invSboxAt_rightInverse]

@[simp] theorem invShiftRows_shiftRows (m : Mat) : invShiftRows (shiftRows m) = m :=
  Mat.ext_get fun r c => by rw [invShiftRows_get, shiftRows_get, sub_add_cancel]

@[simp] theorem shiftRows_invShiftRows (m : Mat) : shiftRows (invShiftRows m) = m :=
  Mat.ext_get fun r c => by rw [shiftRows_get, invShiftRows_get, add_sub_cancel_right]

/-- Substituting cells and moving them commute. -/
theorem subBytes_shiftRows (rom : Rom) (m : Mat) : subBytes rom (shiftRows m) = shiftRows (subBytes rom m) :=
  Mat.ext_get fun r c => by rw [subBytes_get, shiftRows_get, shiftRows_get, subBytes_get]

/-! ### The product of the two matrices -/

/-- A byte times one coefficient of the product of two matrices: the XOR over the four terms of a row times a column. -/
def productSum (k0 k1 k2 k3 l0 l1 l2 l3 x : Byte) : Byte :=
  fieldMultiply k0 (fieldMultiply l0 x) ^^^ fieldMultiply k1 (fieldMultiply l1 x) ^^^
    fieldMultiply k2 (fieldMultiply l2 x) ^^^ fieldMultiply k3 (fieldMultiply l3 x)

/-- Multiplying a column by two matrices in turn, gathered by the column's cells. -/
theorem mixCell_mixCell (k0 k1 k2 k3 l0 l1 l2 l3 : Byte) (t : Col) (r : Fin 4) :
    mixCell k0 k1 k2 k3 (Col.ofFn (mixCell l0 l1 l2 l3 t)) r =
      productSum k0 k1 k2 k3 l0 l3 l2 l1 (t.get r) ^^^ productSum k0 k1 k2 k3 l1 l0 l3 l2 (t.get (r + 1)) ^^^
        productSum k0 k1 k2 k3 l2 l1 l0 l3 (t.get (r + 2)) ^^^ productSum k0 k1 k2 k3 l3 l2 l1 l0 (t.get (r + 3)) := by
  simp only [mixCell, productSum, Col.get_ofFn, fieldMultiply_xor, add_assoc, Fin.isValue, Fin.reduceAdd, add_zero]
  ac_rfl

/-- The coefficients of R123's matrix times R122's are 1, 0, 0, 0: written as doublings, all but one term cancel in pairs. -/
theorem productSum_invMix_mix (x : Byte) :
    productSum 14 11 13 9 2 1 1 3 x = x ∧ productSum 14 11 13 9 3 2 1 1 x = 0 ∧
      productSum 14 11 13 9 1 3 2 1 x = 0 ∧ productSum 14 11 13 9 1 1 3 2 x = 0 := by
  have hcomm (a b c : Byte) : a ^^^ (b ^^^ c) = b ^^^ (a ^^^ c) := by ac_rfl
  simp [productSum, fieldMultiply_eq, xtime_xor, BitVec.xor_assoc, BitVec.xor_comm, hcomm]

theorem mixCell_invMix_mix (t : Col) (r : Fin 4) : mixCell 14 11 13 9 (Col.ofFn (mixCell 2 3 1 1 t)) r = t.get r := by
  obtain ⟨h0, -⟩ := productSum_invMix_mix (t.get r)
  obtain ⟨-, h1, -⟩ := productSum_invMix_mix (t.get (r + 1))
  obtain ⟨-, -, h2, -⟩ := productSum_invMix_mix (t.get (r + 2))
  obtain ⟨-, -, -, h3⟩ := productSum_invMix_mix (t.get (r + 3))
  rw [mixCell_mixCell, h0, h1, h2, h3, LawfulXor.xor_zero, LawfulXor.xor_zero, LawfulXor.xor_zero]

/-! ### MixColumns and its inverse -/

@[simp] theorem invMixColumns_mixColumns (m : Mat) : invMixColumns (mixColumns m) = m :=
  Mat.ext_get fun r c => by
    have hcol : (mixColumns m).col c = Col.ofFn (mixCell 2 3 1 1 (m.col c)) := Mat.col_ofFn ..
    rw [invMixColumns_get, hcol, mixCell_invMix_mix, Mat.col_get]

/-- There are finitely many matrices: a bus value determines its matrix. -/
theorem finite_mat : Finite Mat := Finite.of_injective Mat.toBus (Function.LeftInverse.injective Mat.ofBus_toBus)

/-- MixColumns is injective, so on the finite set of matrices it reaches every one. -/
theorem mixColumns_surjective : Function.Surjective mixColumns :=
  haveI := finite_mat
  Finite.injective_iff_surjective.mp (Function.LeftInverse.injective invMixColumns_mixColumns)

/-- A left inverse on a finite set is a right inverse. -/
@[simp] theorem mixColumns_invMixColumns (m : Mat) : mixColumns (invMixColumns m) = m :=
  Function.LeftInverse.rightInverse_of_surjective invMixColumns_mixColumns mixColumns_surjective m

/-- Settles O52: each pair of primitives is inverse on both sides, and substitution commutes with rotation. -/
theorem inversePrimitivesUndoForwardOnes : Obligations.InversePrimitivesUndoForwardOnes := fun rom m k =>
  ⟨invSubBytes_subBytes rom m, subBytes_invSubBytes rom m, invShiftRows_shiftRows m, shiftRows_invShiftRows m,
    invMixColumns_mixColumns m, mixColumns_invMixColumns m, addRoundKey_addRoundKey m k, subBytes_shiftRows rom m⟩

end Sys2Proof.Machine
end

section
/-! Proofs of the pipeline family, part 1: one round as a command (R152 to R155), and a pipeline as the last of the states it
passes through (R150, R151, R156, R157). -/

namespace Sys2Proof.Machine

/-! ### One round -/

/-- A round of encryption, with the round told apart by its number as R152 does. -/
theorem encRound_eq (rom : Rom) (rk : RoundKeys) (k : Fin 11) (m : Mat) :
    encRound rom rk k m = addRoundKey
      (if k.val = 10 then shiftRows (subBytes rom m) else mixColumns (shiftRows (subBytes rom m))) (rk.get k) := by
  simp only [encRound, Fin.ext_iff]
  rfl

/-- A round of decryption, with the round told apart by its number as R153 does. -/
theorem decRound_eq (rom : Rom) (rk : RoundKeys) (k : Fin 11) (m : Mat) :
    decRound rom rk k m =
      if k.val = 0 then addRoundKey (invSubBytes rom (invShiftRows m)) (rk.get k)
      else invMixColumns (addRoundKey (invSubBytes rom (invShiftRows m)) (rk.get k)) := by
  simp only [decRound, Fin.ext_iff]
  rfl

theorem encIndex_of_toNat_eq {r : BitVec 4} {k : Fin 11} (hr : r.toNat = k.val) (h1 : 1 ≤ k.val) :
    encIndex r = some k :=
  (encIndex_eq_some (hr ▸ h1) (hr ▸ k.isLt)).trans (congrArg some (Fin.ext hr))

theorem decIndex_of_toNat_eq {r : BitVec 4} {k : Fin 11} (hr : r.toNat = k.val) (h9 : k.val ≤ 9) :
    decIndex r = some k :=
  (decIndex_eq_some (hr ▸ Nat.lt_succ_of_le h9)).trans (congrArg some (Fin.ext hr))

theorem exec_encrnd {r : BitVec 4} {k : Fin 11} {s : State} (hr : r.toNat = k.val) (h1 : 1 ≤ k.val)
    (hk : s.status.keyValid = true) (hs : s.status.stValid = true) :
    exec (.encrnd r) s = .next (s.writeSt (encRound s.rom s.rk k s.st)).completeOk := by
  change execEncrnd r s = _
  rw [execEncrnd, encIndex_of_toNat_eq hr h1, requireRange_some, transformStWithKeys_of_valid hk hs]

theorem exec_decrnd {r : BitVec 4} {k : Fin 11} {s : State} (hr : r.toNat = k.val) (h9 : k.val ≤ 9)
    (hk : s.status.keyValid = true) (hs : s.status.stValid = true) :
    exec (.decrnd r) s = .next (s.writeSt (decRound s.rom s.rk k s.st)).completeOk := by
  change execDecrnd r s = _
  rw [execDecrnd, decIndex_of_toNat_eq hr h9, requireRange_some, transformStWithKeys_of_valid hk hs]

/-- Settles O53: the index r is in range, and ENCRND writes the round of R152. -/
theorem encrndRunsOneRound : Obligations.EncrndRunsOneRound := by
  intro r k s hr h1 hk hs
  rw [exec_encrnd hr h1 hk hs, encRound_eq]
  rfl

/-- Settles O54: the index r is in range, and DECRND writes the round of R153. -/
theorem decrndRunsOneRound : Obligations.DecrndRunsOneRound := by
  intro r k s hr h9 hk hs
  rw [exec_decrnd hr h9 hk hs, decRound_eq]
  rfl

/-! ### A pipeline -/

/-- A sequence whose every member is made from the one before runs through the values of the fold. -/
theorem foldl_eq_last {α : Type} {n : Nat} {f : Fin n → α → α} {m : Nat → α}
    (hm : ∀ k : Fin n, m (k.val + 1) = f k (m k.val)) : Fin.foldl n (fun x k => f k x) (m 0) = m n := by
  induction n with
  | zero => exact Fin.foldl_zero ..
  | succ n ih =>
    have hlast : m (n + 1) = f (Fin.last n) (m n) := hm (Fin.last n)
    rw [Fin.foldl_succ_last, hlast]
    exact congrArg (f (Fin.last n)) (ih fun k => hm k.castSucc)

/-- A sequence whose every member is made from the one after runs through the values of the fold from its far end. -/
theorem foldr_eq_first {α : Type} {n : Nat} {f : Fin n → α → α} {m : Nat → α}
    (hm : ∀ k : Fin n, m k.val = f k (m (k.val + 1))) : Fin.foldr n f (m n) = m 0 := by
  induction n with
  | zero => exact Fin.foldr_zero ..
  | succ n ih =>
    have hlast : m n = f (Fin.last n) (m (n + 1)) := hm (Fin.last n)
    rw [Fin.foldr_succ_last, ← hlast]
    exact ih fun k => hm k.castSucc

/-- Encryption's loop counts up from 1 to 10 (R150). -/
theorem encrypt_eq_foldl (rom : Rom) (rk : RoundKeys) (m : Mat) :
    encrypt rom rk m = Fin.foldl 10 (fun x k => encRound rom rk k.succ x) (addRoundKey m (rk.get 0)) := by
  rw [Fin.foldl_eq_foldl_finRange]
  rfl

/-- Decryption's loop counts down from 9 to 0 (R151). -/
theorem decrypt_eq_foldr (rom : Rom) (rk : RoundKeys) (m : Mat) :
    decrypt rom rk m = Fin.foldr 10 (fun k => decRound rom rk k.castSucc) (addRoundKey m (rk.get 10)) := by
  rw [Fin.foldr_eq_foldr_finRange]
  rfl

theorem exec_encblk {s : State} (hk : s.status.keyValid = true) (hs : s.status.stValid = true) :
    exec .encblk s = .next (s.writeSt (encrypt s.rom s.rk s.st)).completeOk :=
  transformStWithKeys_of_valid hk hs _

theorem exec_decblk {s : State} (hk : s.status.keyValid = true) (hs : s.status.stValid = true) :
    exec .decblk s = .next (s.writeSt (decrypt s.rom s.rk s.st)).completeOk :=
  transformStWithKeys_of_valid hk hs _

/-- Settles O55: the sequence of R150 ends where the loop of ENCBLK ends. -/
theorem encblkRunsTenRounds : Obligations.EncblkRunsTenRounds := by
  intro s m hk hs h0 hrounds
  have hm (k : Fin 10) : m (k.val + 1) = encRound s.rom s.rk k.succ (m k.val) := by
    rw [encRound_eq, Fin.val_succ]
    exact hrounds k
  rw [exec_encblk hk hs, encrypt_eq_foldl, ← h0, foldl_eq_last hm]
  rfl

/-- Settles O56: the sequence of R151 ends where the loop of DECBLK ends. -/
theorem decblkRunsTenRounds : Obligations.DecblkRunsTenRounds := by
  intro s m hk hs h10 hrounds
  have hm (k : Fin 10) : m k.val = decRound s.rom s.rk k.castSucc (m (k.val + 1)) := by
    rw [decRound_eq, Fin.val_castSucc]
    exact hrounds k
  rw [exec_decblk hk hs, decrypt_eq_foldr, ← h10, foldr_eq_first hm]
  rfl

end Sys2Proof.Machine
end

section
/-! Proofs of the pipeline family, part 2: decryption undoes encryption (R158). A round of decryption begins with the inverses of
the rotation and the substitution that stand at the front of a round of encryption, so the states of the two pipelines meet behind
`shiftRows (subBytes …)`. -/

namespace Sys2Proof.Machine

/-! ### The rounds against each other -/

/-- Adding RK[10] opens the last round of encryption. -/
theorem addRoundKey_encRound_ten (rom : Rom) (rk : RoundKeys) (m : Mat) :
    addRoundKey (encRound rom rk 10 m) (rk.get 10) = shiftRows (subBytes rom m) :=
  addRoundKey_addRoundKey ..

/-- A round with a matrix product takes decryption from behind the next round's substitution to behind its own. -/
theorem decRound_encRound {k : Fin 11} (h0 : k ≠ 0) (h10 : k ≠ 10) (rom : Rom) (rk : RoundKeys) (m : Mat) :
    decRound rom rk k (shiftRows (subBytes rom (encRound rom rk k m))) = shiftRows (subBytes rom m) := by
  simp only [decRound, encRound, if_neg h0, if_neg h10, invShiftRows_shiftRows, invSubBytes_subBytes,
    addRoundKey_addRoundKey, invMixColumns_mixColumns]

/-- Round 0 of decryption takes off the key that encryption begins with. -/
theorem decRound_zero (rom : Rom) (rk : RoundKeys) (m : Mat) :
    decRound rom rk 0 (shiftRows (subBytes rom (addRoundKey m (rk.get 0)))) = m := by
  simp only [decRound, if_pos, invShiftRows_shiftRows, invSubBytes_subBytes, addRoundKey_addRoundKey]

/-! ### The pipelines -/

/-- The rounds that have a matrix product in both directions. -/
def middleRounds : List (Fin 11) := [1, 2, 3, 4, 5, 6, 7, 8, 9]

theorem encRounds_eq : encRounds = middleRounds ++ [10] := rfl

theorem decRounds_eq : decRounds = middleRounds.reverse ++ [0] := rfl

/-- Rounds with a matrix product, undone in the opposite order. -/
theorem foldl_decRound_reverse {ks : List (Fin 11)} (hks : ∀ k ∈ ks, k ≠ 0 ∧ k ≠ 10) (rom : Rom) (rk : RoundKeys) (m : Mat) :
    ks.reverse.foldl (fun x k => decRound rom rk k x)
      (shiftRows (subBytes rom (ks.foldl (fun x k => encRound rom rk k x) m))) = shiftRows (subBytes rom m) := by
  induction ks generalizing m with
  | nil => rfl
  | cons k ks ih =>
    obtain ⟨⟨h0, h10⟩, htail⟩ := List.forall_mem_cons.mp hks
    rw [List.reverse_cons, List.foldl_concat, List.foldl_cons, ih htail]
    exact decRound_encRound h0 h10 rom rk m

/-- R158: `Decrypt(Encrypt(M, RK), RK) = M`. -/
theorem decrypt_encrypt (rom : Rom) (rk : RoundKeys) (m : Mat) : decrypt rom rk (encrypt rom rk m) = m := by
  have hmiddle : ∀ k ∈ middleRounds, k ≠ 0 ∧ k ≠ 10 := by decide
  rw [encrypt, decrypt, encRounds_eq, decRounds_eq, List.foldl_concat, List.foldl_concat,
    addRoundKey_encRound_ten, foldl_decRound_reverse hmiddle]
  exact decRound_zero rom rk m

/-! ### The transactions -/

/-- A word the decoder accepts runs its command on the state that has sampled it. -/
theorem transact_of_command {w : CmdWord} {i : Instr} (h : decode w = .command i) (d : BusWord) (s : State) :
    transact w d s = exec i (s.accept w d) := by
  rw [transact, perform, State.accept_cmdLatch, h]

/-- Settles O58: DECBLK meets the ROM and the round keys that ENCBLK used, and decryption undoes encryption. -/
theorem decblkUndoesEncblk : Obligations.DecblkUndoesEncblk := by
  intro s d d' hk hs
  have henc : decode 0x38000000 = .command .encblk := by decide
  have hdec : decode 0x39000000 = .command .decblk := by decide
  refine ⟨_, _, (transact_of_command henc d s).trans (exec_encblk hk hs),
    (transact_of_command hdec d' _).trans (exec_decblk hk hs), ?_, rfl, rfl⟩
  exact decrypt_encrypt s.rom s.rk s.st

end Sys2Proof.Machine
end

section
/-! Proofs of the exceptions family, part 1: R66's list of checks, read off a word's bits, against the decoder and the command that
the word stands for. -/

namespace Sys2Proof

/-! ### The response of a command -/

/-- The opcodes that read RK, and so want KEY_VALID (R30). -/
abbrev Opcode.readingRk : List Opcode := [.ldrk, .ark, .encrnd, .decrnd, .encblk, .decblk]

/-- The opcodes that read ST, and so want ST_VALID (R30). -/
abbrev Opcode.readingSt : List Opcode :=
  [.subb, .isubb, .shrow, .ishrow, .mixcol, .imixcol, .ark, .encrnd, .decrnd, .encblk, .decblk]

/-- R66's last three checks, in R66's order. -/
def checkCode (inRange keyed loaded : Bool) : RspCode :=
  if inRange = false then .errRange else if keyed = false then .errNoKey else if loaded = false then .errNoState else .ok

/-- The code of a command under the two valid bits: what is left of R66's list once the word is a legal spelling. -/
def Instr.response (i : Instr) (keyValid stValid : Bool) : RspCode :=
  checkCode i.wellFormed (decide (i.opcode ∉ Opcode.readingRk) || keyValid)
    (decide (i.opcode ∉ Opcode.readingSt) || stValid)

/-! ### The masked match of R65 against R66's reserved bits -/

/-- R66's second check: a non-zero bit outside OP and the operand fields that the opcode uses. -/
abbrev Opcode.ReservedSet (o : Opcode) (n : Nat) : Prop :=
  if o = .gfmul then n % 2 ^ 8 ≠ 0
  else if o ∈ Opcode.usingA then n % 2 ^ 16 ≠ 0
  else if o ∈ Opcode.usingR then n / 2 ^ 8 % 2 ^ 16 ≠ 0 ∨ n % 16 ≠ 0
  else n % 2 ^ 24 ≠ 0

theorem maskedMatch_iff_not_reservedSet {w : CmdWord} {o : Opcode} (h : CmdWord.op w = o.byte) :
    w &&& o.mask = o.pattern ↔ ¬ o.ReservedSet w.toNat := by
  have hz {n : Nat} (x : BitVec n) : x = 0 ↔ x.toNat = 0 := by simp [BitVec.toNat_eq]
  rw [maskedMatch_iff, and_iff_right h, hz, hz, hz, hz, CmdWord.a_toNat, CmdWord.b_toNat, CmdWord.r_toNat, CmdWord.z_toNat]
  cases o <;>
  · simp only [Opcode.ReservedSet, List.mem_cons, List.not_mem_nil, reduceCtorEq, or_self, or_false, or_true, ne_eq,
      not_true_eq_false, not_false_eq_true, forall_const, IsEmpty.forall_iff, true_and, ↓reduceIte]
    omega

/-! ### R66's list of checks, one equation per stage -/

theorem responseOf_of_illegalOp {w : CmdWord} (h : illegalOp (w.toNat / 2 ^ 24) = true) (keyValid stValid : Bool) :
    responseOf w keyValid stValid = .errOpcode := by
  simp only [illegalOp, Bool.or_eq_true, Bool.and_eq_true, decide_eq_true_eq] at h
  unfold responseOf
  rw [if_pos]
  simp only [List.cons_append, List.nil_append, List.mem_cons, List.not_mem_nil, or_false]
  omega

/-- A word with an opcode's OP value is answered as the decoder reads it: by ERR_RSV where it breaks the masked match, else by the
code of the command it stands for. For a known opcode each membership test of R66's list is decided, and what stays of the list is
the reserved bits, the opcode's own range and the valid bits it wants. -/
theorem responseOf_of_op {w : CmdWord} {o : Opcode} (h : CmdWord.op w = o.byte) (keyValid stValid : Bool) :
    responseOf w keyValid stValid =
      if w &&& o.mask = o.pattern then (o.command w).response keyValid stValid else .errRsv := by
  have hop : w.toNat / 2 ^ 24 = o.byte.toNat := by rw [← h, CmdWord.op_toNat]
  have hcoefficient (n : Nat) : 15 < n ↔ 16 ≤ n := Iff.rfl
  have hround (n : Nat) : (1 ≤ n → 10 < n) ↔ n = 0 ∨ 10 < n := by omega
  rw [if_congr (maskedMatch_iff_not_reservedSet h) rfl rfl, ite_not, responseOf, hop]
  cases o <;>
    simp [Opcode.byte, Opcode.command, Instr.response, Instr.opcode, Instr.wellFormed, checkCode, CmdWord.a_toNat,
      CmdWord.r_toNat, Opcode.ReservedSet, hcoefficient, hround]

/-- A word the decoder rejects is answered by the decoder's code, which is an error. -/
theorem responseOf_of_rejected {w : CmdWord} {code : RspCode} (h : decode w = .rejected code) (keyValid stValid : Bool) :
    responseOf w keyValid stValid = code ∧ code ≠ .ok := by
  cases hl : illegalOp (w.toNat / 2 ^ 24) with
  | true =>
    obtain rfl : RspCode.errOpcode = code := by simpa [decode_of_illegalOp hl] using h
    exact ⟨responseOf_of_illegalOp hl _ _, by decide⟩
  | false =>
    obtain ⟨o, ho⟩ := exists_opcode_of_legalOp hl
    rw [decode_of_op ho] at h
    rw [responseOf_of_op ho]
    split at h
    next => simp at h
    next hm =>
      injection h with h
      rw [if_neg hm, ← h]
      exact ⟨rfl, by decide⟩

/-- A word the decoder accepts is answered by its command's code. -/
theorem responseOf_of_command {w : CmdWord} {i : Instr} (h : decode w = .command i) (keyValid stValid : Bool) :
    responseOf w keyValid stValid = i.response keyValid stValid := by
  obtain ⟨hm, hi⟩ := decode_eq_command_iff.mp h
  obtain ⟨hop, -⟩ := (maskedMatch_iff _ _).mp hm
  rw [responseOf_of_op hop, if_pos hm, hi]

end Sys2Proof
end

section
/-! Proofs of the exceptions family, part 2: every command makes R66's checks and then its writes (R183, R185, R186). -/

namespace Sys2Proof.Machine

/-! ### The end of a checked command -/

/-- The end of a command whose checks give `code`: in `t`, which holds its writes, where the code is OK; else `code` is raised in
`s` (R185, R186). -/
def answer (s : State) (code : RspCode) (t : State) : Outcome := if code = .ok then complete t else fail code s

theorem answer_of_ok (s t : State) : answer s .ok t = complete t := rfl

theorem answer_of_error {code : RspCode} (h : code ≠ .ok) (s t : State) : answer s code t = fail code s := if_neg h

theorem requireKey_complete (s t : State) :
    requireKey s (complete t) = answer s (checkCode true s.status.keyValid true) t := by
  cases h : s.status.keyValid with
  | true => exact requireKey_of_valid h _
  | false => exact requireKey_of_invalid h _

theorem transformSt_eq_answer (f : Mat → Mat) (s : State) :
    transformSt f s = answer s (checkCode true true s.status.stValid) (s.writeSt (f s.st)) := by
  cases h : s.status.stValid with
  | true => exact transformSt_of_valid h f
  | false => exact requireState_of_invalid h _

theorem transformStWithKeys_eq_answer (f : Mat → Mat) (s : State) :
    transformStWithKeys f s = answer s (checkCode true s.status.keyValid s.status.stValid) (s.writeSt (f s.st)) := by
  cases h : s.status.keyValid with
  | true => exact (requireKey_of_valid h _).trans (transformSt_eq_answer f s)
  | false => exact requireKey_of_invalid h _

/-- The range check comes before the checks of STATUS. -/
theorem requireRange_answer {α : Type} {operand : Option α} {inRange keyed loaded : Bool} (hr : operand.isSome = inRange)
    (s : State) {body : α → Outcome} {t : α → State} (h : ∀ v, body v = answer s (checkCode true keyed loaded) (t v)) :
    requireRange operand s body = answer s (checkCode inRange keyed loaded) (operand.elim s t) := by
  subst hr
  cases operand with
  | some v => exact h v
  | none => rfl

/-! ### The operand ranges, as `Instr.wellFormed` has them -/

theorem isSome_roundIndex {hi : Nat} (hhi : hi ≤ 10) (lo : Nat) (r : BitVec 4) :
    (roundIndex lo hi r).isSome = (decide (lo ≤ r.toNat) && decide (r.toNat ≤ hi)) := by
  rw [← Bool.decide_and]
  by_cases h : lo ≤ r.toNat ∧ r.toNat ≤ hi
  · obtain ⟨hlo, hr⟩ := h
    rw [roundIndex_eq_some hlo hr (by omega), decide_eq_true ⟨hlo, hr⟩, Option.isSome_some]
  · rw [roundIndex_eq_none (by omega), decide_eq_false h, Option.isSome_none]

theorem isSome_keyIndex (r : BitVec 4) : (keyIndex r).isSome = decide (r.toNat ≤ 10) := by
  simpa [keyIndex] using isSome_roundIndex le_rfl 0 r

theorem isSome_encIndex (r : BitVec 4) : (encIndex r).isSome = (decide (1 ≤ r.toNat) && decide (r.toNat ≤ 10)) :=
  isSome_roundIndex le_rfl 1 r

theorem isSome_decIndex (r : BitVec 4) : (decIndex r).isSome = decide (r.toNat ≤ 9) := by
  simpa [decIndex] using isSome_roundIndex (by decide : 9 ≤ 10) 0 r

theorem isSome_coefficient (a : Byte) : (coefficient a).isSome = decide (a.toNat ≤ 0x0F) := by
  by_cases h : a.toNat ≤ 0x0F
  · simp [coefficient_eq_some (Nat.lt_succ_of_le h), h]
  · have hz : a.extractLsb' 4 4 ≠ 0 := by
      simp only [ne_eq, BitVec.toNat_eq, BitVec.extractLsb'_toNat, Nat.shiftRight_eq_div_pow, BitVec.ofNat_eq_ofNat,
        BitVec.toNat_ofNat]
      have := a.isLt
      omega
    rw [coefficient, if_neg hz, decide_eq_false h]
    rfl

/-! ### Every command: its checks, then its writes -/

/-- What a command writes once its checks hold: the assignments of its rule, before LAST_CODE. -/
def commandWrites (i : Instr) (s : State) : State :=
  match i with
  | .nop => s
  | .ldst => s.loadSt (mat s.blockOperand)
  | .keyexp => s.loadKeys (expandKey s.rom s.blockOperand)
  | .keyfix => s.loadKeys (expandKey s.rom (bytes s.rom.fixedKey))
  | .ldrk r => (keyIndex r).elim s fun k => s.loadSt (s.roundKeyAt k)
  | .xtime a => s.writeY (xtime a)
  | .gfmul a b => (coefficient a).elim s fun k => s.writeY (fieldMultiply k b)
  | .sbox a => s.writeY (s.rom.sboxAt a)
  | .isbox a => s.writeY (s.rom.invSboxAt a)
  | .subb => s.writeSt (subBytes s.rom s.st)
  | .isubb => s.writeSt (invSubBytes s.rom s.st)
  | .shrow => s.writeSt (shiftRows s.st)
  | .ishrow => s.writeSt (invShiftRows s.st)
  | .mixcol => s.writeSt (mixColumns s.st)
  | .imixcol => s.writeSt (invMixColumns s.st)
  | .ark r => (keyIndex r).elim s fun k => s.writeSt (addRoundKey s.st (s.roundKeyAt k))
  | .encrnd r => (encIndex r).elim s fun k => s.writeSt (encRound s.rom s.rk k s.st)
  | .decrnd r => (decIndex r).elim s fun k => s.writeSt (decRound s.rom s.rk k s.st)
  | .encblk => s.writeSt (encrypt s.rom s.rk s.st)
  | .decblk => s.writeSt (decrypt s.rom s.rk s.st)

theorem exec_eq_answer (i : Instr) (s : State) :
    exec i s = answer s (i.response s.status.keyValid s.status.stValid) (commandWrites i s) := by
  cases i with
  | nop | ldst | keyexp | keyfix | xtime a | sbox a | isbox a => rfl
  | gfmul a b => exact requireRange_answer (isSome_coefficient a) s fun _ => rfl
  | ldrk r => exact requireRange_answer (isSome_keyIndex r) s fun _ => requireKey_complete s _
  | subb | isubb | shrow | ishrow | mixcol | imixcol => exact transformSt_eq_answer _ s
  | ark r => exact requireRange_answer (isSome_keyIndex r) s fun _ => transformStWithKeys_eq_answer _ s
  | encrnd r => exact requireRange_answer (isSome_encIndex r) s fun _ => transformStWithKeys_eq_answer _ s
  | decrnd r => exact requireRange_answer (isSome_decIndex r) s fun _ => transformStWithKeys_eq_answer _ s
  | encblk | decblk => exact transformStWithKeys_eq_answer _ s

/-- What the sampled word writes once its checks hold; a word that stands for no command writes nothing. -/
def sampledWrites (s : State) : State :=
  match decode s.cmdLatch with
  | .command i => commandWrites i s
  | .rejected _ => s

/-- The sampled word is answered by the first of R66's checks that fails. -/
theorem perform_eq_answer (s : State) :
    perform s = answer s (responseOf s.cmdLatch s.status.keyValid s.status.stValid) (sampledWrites s) := by
  rw [perform, sampledWrites]
  cases h : decode s.cmdLatch with
  | command i => rw [responseOf_of_command h]; exact exec_eq_answer i s
  | rejected code =>
    obtain ⟨hcode, herr⟩ := responseOf_of_rejected h s.status.keyValid s.status.stValid
    rw [hcode, answer_of_error herr]

theorem transact_eq_answer (w : CmdWord) (d : BusWord) (s : State) :
    transact w d s =
      answer (s.accept w d) (responseOf w s.status.keyValid s.status.stValid) (sampledWrites (s.accept w d)) :=
  perform_eq_answer (s.accept w d)

/-! ### The response and ERR -/

/-- A checked command ends in a completion cycle with its code. -/
theorem exists_answer_eq_next (s : State) (code : RspCode) (t : State) :
    ∃ u, answer s code t = .next u ∧ u.phase = .done code ∧ u.status.lastCode = code := by
  by_cases h : code = .ok
  · subst h
    exact ⟨_, answer_of_ok s t, rfl, rfl⟩
  · exact ⟨_, answer_of_error h s t, rfl, rfl⟩

/-- A command sets ERR where it ends in error, and keeps it where it ends OK. -/
theorem Ending.err_eq {s t : State} (h : Ending s t) :
    t.status.err = (decide (t.status.lastCode ≠ .ok) || s.status.err) := by
  cases h <;> simp [*]

theorem transact_ending {w : CmdWord} {d : BusWord} {s t : State} (h : transact w d s = .next t) :
    Ending (s.accept w d) t := by
  obtain ⟨u, hu, he⟩ := perform_ending (s.accept w d)
  have e := hu.symm.trans h
  injection e with e
  exact e ▸ he

/-- Settles O7: R66's list is worked down by the decoder and then by the command's own checks. -/
theorem responseFollowsCheckOrder : Obligations.ResponseFollowsCheckOrder := fun w d s => by
  rw [transact_eq_answer]
  exact exists_answer_eq_next ..

/-- Settles O8: an error is raised in the state that has sampled the word. -/
theorem errorsChangeOnlyStatus : Obligations.ErrorsChangeOnlyStatus := by
  rintro w d s code rfl herr
  rw [transact_eq_answer, answer_of_error herr]
  rfl

/-- Settles O9: a word whose code is OK is no word that the decoder rejects. -/
theorem successRecordsOkAndKeepsErr : Obligations.SuccessRecordsOkAndKeepsErr := by
  intro w d s hok
  obtain ⟨t, ht, hphase, hcode⟩ := responseFollowsCheckOrder w d s
  rw [hok] at hphase hcode
  have herr : t.status.err = s.status.err := by simpa [hcode] using (transact_ending ht).err_eq
  cases h : decode w with
  | command i => exact ⟨i, t, rfl, (transact_of_command h d s).symm.trans ht, ht, hcode, hphase, herr⟩
  | rejected code =>
    obtain ⟨rfl, hne⟩ := responseOf_of_rejected h s.status.keyValid s.status.stValid
    exact absurd hok hne

end Sys2Proof.Machine
end

section
/-! Proofs of the exceptions family, part 3: an earlier error leaves nothing behind but ERR (R187). -/

namespace Sys2Proof.Machine

/-- `s` with an earlier error in STATUS. -/
def State.withError (code : RspCode) (s : State) : State :=
  { s with status := { s.status with err := true, lastCode := code } }

theorem elim_withError {α : Type} {operand : Option α} {f g : α → State} (code : RspCode) (s : State)
    (h : ∀ v, g v = (f v).withError code) :
    operand.elim (s.withError code) g = (operand.elim s f).withError code := by
  cases operand with
  | some v => exact h v
  | none => rfl

/-- No command's writes look at ERR or LAST_CODE, or write them. -/
theorem commandWrites_withError (i : Instr) (code : RspCode) (s : State) :
    commandWrites i (s.withError code) = (commandWrites i s).withError code := by
  cases i with
  | ldrk r | gfmul a b | ark r | encrnd r | decrnd r => exact elim_withError code s fun _ => rfl
  | _ => rfl

theorem sampledWrites_withError (code : RspCode) (s : State) :
    sampledWrites (s.withError code) = (sampledWrites s).withError code := by
  have hlatch : (s.withError code).cmdLatch = s.cmdLatch := rfl
  rw [sampledWrites, sampledWrites, hlatch]
  cases decode s.cmdLatch with
  | command i => exact commandWrites_withError i code s
  | rejected c => rfl

/-- A checked command writes LAST_CODE anew, so of the earlier error it leaves ERR alone. -/
theorem answer_withError {s t u : State} {code : RspCode} (h : answer s code t = .next u) (earlier : RspCode) :
    answer (s.withError earlier) code (t.withError earlier) = .next { u with status := { u.status with err := true } } := by
  by_cases hc : code = .ok
  · subst hc
    obtain rfl : t.completeOk = u := by injection h
    rfl
  · rw [answer_of_error hc] at h ⊢
    obtain rfl : s.raise code = u := by injection h
    rfl

/-- Settles O32: R66's checks do not look at ERR or LAST_CODE, and the writes carry ERR through. -/
theorem earlierErrorsLeaveOnlyErr : Obligations.EarlierErrorsLeaveOnlyErr := by
  intro w d s t code h
  have herr := (transact_ending h).err_eq
  refine ⟨fun hc => by simp [herr, hc], fun hs => by simp [herr, hs], ?_⟩
  rw [transact_eq_answer] at h
  have hearlier := answer_withError h code
  rw [← sampledWrites_withError] at hearlier
  exact (transact_eq_answer w d (s.withError code)).trans hearlier

end Sys2Proof.Machine
end

section
/-! Proofs of the reset and hazards family: a ready core takes or misses the offer at the coming edge, and a core that is not ready
does not look at the offer (R201, R202, R203). -/

namespace Sys2Proof.Machine

theorem State.cmdReady_eq_true_iff (s : State) :
    s.cmdReady = true ↔ s.phase.ready = true ∧ s.nextEdge.rst = false := by
  simp [State.cmdReady, State.rstPin]

theorem State.cmdReady_eq_false_iff (s : State) :
    s.cmdReady = false ↔ s.nextEdge.rst = true ∨ s.phase.ready = false := by
  rw [← Bool.not_eq_true, State.cmdReady_eq_true_iff, not_and_or, Bool.not_eq_true, Bool.not_eq_false, or_comm]

/-- The edge at which a command may be accepted: idle, or in a completion cycle. -/
theorem step_of_cmdReady {s : State} (h : s.cmdReady = true) : step s = .next (s.tick.offer s.nextEdge) := by
  obtain ⟨hready, hrst⟩ := s.cmdReady_eq_true_iff.mp h
  cases hp : s.phase with
  | idle | done code => simp [step, clockEdge, hrst, hp]
  | inReset | busy n => simp [hp, Phase.ready] at hready

theorem step_of_rst {s : State} (h : s.nextEdge.rst = true) : step s = .next s.tick.resetEdge := by
  simp [step, clockEdge, h]

/-- With cmd_ready = 0 the edge reads of its ports only rst and the timing: two states that agree in these, and in all that the edge
leaves behind, make the same step. -/
theorem step_congr_of_not_cmdReady {s t : State} (h : s.cmdReady = false) (htick : t.tick = s.tick)
    (hrst : t.nextEdge.rst = s.nextEdge.rst) (hfinish : t.nextEdge.finish = s.nextEdge.finish) : step t = step s := by
  have hphase : t.phase = s.phase := by rw [← t.tick_phase, htick, s.tick_phase]
  obtain hreset | hready := s.cmdReady_eq_false_iff.mp h
  · rw [step_of_rst hreset, step_of_rst (hrst.trans hreset), htick]
  · cases hp : s.phase with
    | idle | done code => simp [hp, Phase.ready] at hready
    | inReset | busy n => simp [step, clockEdge, hphase, hp, htick, hrst, hfinish]

/-- Settles O16: the ready core takes the offer or goes idle, and the offer is no part of what an edge reads with cmd_ready = 0. -/
theorem acceptanceSamplesCmdAndDin : Obligations.AcceptanceSamplesCmdAndDin := by
  refine ⟨fun s hready hvalid => ?_, fun s hready hvalid => ?_, fun s e rest hpins hready v w d => ?_⟩
  · rw [step_of_cmdReady hready, State.offer, if_pos hvalid]
    rfl
  · rw [step_of_cmdReady hready, State.offer, if_neg (Bool.eq_false_iff.mp hvalid)]
    rfl
  · have hedge : s.nextEdge = e := by simp [State.nextEdge, hpins]
    refine step_congr_of_not_cmdReady hready ?_ ?_ ?_
    · simp [State.tick, hpins]
    · rw [hedge]
      rfl
    · rw [hedge]
      rfl

end Sys2Proof.Machine
end

section
/-! Proofs of the encoding family, part 4: the encoder and the assembler against the decoder (R65, R67, R69). -/

namespace Sys2Proof

/-! ### The encoder's words -/

/-- What the encoder emits is a legal spelling of the command's opcode (R65). -/
theorem encode_legalSpelling (i : Instr) : Laws.LegalSpelling.Statement i := by
  cases i with
  | ldrk r => exact Laws.LegalSpelling.ldrk r
  | xtime a => exact Laws.LegalSpelling.xtime a
  | gfmul a b => exact Laws.LegalSpelling.gfmul a b
  | sbox a => exact Laws.LegalSpelling.sbox a
  | isbox a => exact Laws.LegalSpelling.isbox a
  | ark r => exact Laws.LegalSpelling.ark r
  | encrnd r => exact Laws.LegalSpelling.encrnd r
  | decrnd r => exact Laws.LegalSpelling.decrnd r
  | nop | ldst | keyexp | keyfix | subb | isubb | shrow | ishrow | mixcol | imixcol | encblk | decblk => rfl

/-- The operand fields of the encoder's word are the command's own operands. -/
theorem opcode_command_encode (i : Instr) : i.opcode.command (encode i) = i := by
  cases i <;> simp [Instr.opcode, Opcode.command, encode]

/-- The decoder reads the encoder's word as the command. -/
theorem decode_encode (i : Instr) : decode (encode i) = .command i :=
  decode_eq_command_iff.mpr ⟨encode_legalSpelling i, opcode_command_encode i⟩

/-- Settles O1: the encoder's word is a legal spelling and carries the operands. -/
theorem decodeOfEncodedCommand : Obligations.DecodeOfEncodedCommand := decode_encode

/-- Settles O2: an accepted word has zero in every bit that the encoder leaves zero. -/
theorem encodeOfDecodedWord : Obligations.EncodeOfDecodedWord := fun _ _ => encode_of_decode

/-! ### The legal spellings of an opcode -/

/-- A word decodes to a command of an opcode exactly when it matches the opcode's pattern under its mask. -/
theorem exists_decode_of_opcode_iff (w : CmdWord) (o : Opcode) :
    (∃ i, decode w = .command i ∧ i.opcode = o) ↔ w &&& o.mask = o.pattern := by
  constructor
  · rintro ⟨i, hi, rfl⟩
    exact (decode_eq_command_iff.mp hi).1
  · intro h
    exact ⟨o.command w, decode_eq_command_iff.mpr (by simpa using h), o.opcode_command w⟩

/-- Settles O3: the masks and OP values that R65 tabulates are those of the opcode map, and the rest is the masked match. -/
theorem legalSpellingIsMaskedMatch : Obligations.LegalSpellingIsMaskedMatch := by
  intro row hrow w
  have htable : BitVec.ofNat 32 row.2.2 = row.1.mask ∧ BitVec.ofNat 32 (row.2.1 * 2 ^ 24) = row.1.pattern := by
    revert row
    decide
  obtain ⟨hmask, hpattern⟩ := htable
  rw [hmask, hpattern]
  exact exists_decode_of_opcode_iff w row.1

/-- Settles O4: each of the twenty words is decoded by evaluation. -/
theorem wordsOfEveryFamilyDecode : Obligations.WordsOfEveryFamilyDecode := by
  unfold Obligations.WordsOfEveryFamilyDecode
  decide

end Sys2Proof

namespace Sys2Proof.Machine

/-! ### The assembler's words -/

/-- What the assembler makes of operand texts is a command of the mnemonic's opcode, with some din. -/
theorem eq_command_of_assembleOpcode {o : Opcode} {operands : List (List Char)} {c : Command}
    (h : assembleOpcode o operands = some c) : ∃ (i : Instr) (d : BusWord), c = command i d ∧ i.opcode = o := by
  unfold assembleOpcode at h
  split at h
  case h_7 =>
    obtain ⟨_, -, hmap⟩ := Option.bind_eq_some_iff.mp h
    obtain ⟨_, -, rfl⟩ := Option.map_eq_some_iff.mp hmap
    exact ⟨_, _, rfl, rfl⟩
  case h_2 | h_3 | h_5 | h_6 | h_8 | h_9 | h_16 | h_17 | h_18 =>
    obtain ⟨_, -, rfl⟩ := Option.map_eq_some_iff.mp h
    exact ⟨_, _, rfl, rfl⟩
  case h_21 => simp at h
  all_goals
    obtain rfl := Option.some.inj h
    exact ⟨_, _, rfl, rfl⟩

/-- Settles O60: the assembler takes its words from the encoder. -/
theorem assembledCommandsDecode : Obligations.AssembledCommandsDecode := by
  intro o operands c h
  obtain ⟨i, d, rfl, hi⟩ := eq_command_of_assembleOpcode h
  exact ⟨i, decode_encode i, hi⟩

end Sys2Proof.Machine
end

section
/-! Proofs of the reset and hazards family, part 2: one edge in each phase (R200, R201, R203, R204, R206, R212). -/

namespace Sys2Proof.Machine

/-! ### One equation per kind of edge -/

theorem completesNow_eq_true_iff (finish : Bool) (n : Nat) :
    completesNow finish n = true ↔ finish = true ∨ Config.latMax ≤ n + 1 := by
  simp [completesNow]

theorem step_of_inReset {s : State} (hp : s.phase = .inReset) (hr : s.nextEdge.rst = false) :
    step s = .next { s.tick with phase := .idle } := by
  simp [step, clockEdge, hp, hr]

/-- The edge that completes a command performs the sampled word. -/
theorem step_of_completes {s : State} {n : Nat} (hp : s.phase = .busy n) (hr : s.nextEdge.rst = false)
    (hc : s.nextEdge.finish = true ∨ Config.latMax ≤ n + 1) : step s = perform s.tick := by
  simp [step, clockEdge, hp, hr, (completesNow_eq_true_iff _ _).mpr hc]

/-- An edge at which a command in flight goes on. -/
theorem step_of_waits {s : State} {n : Nat} (hp : s.phase = .busy n) (hr : s.nextEdge.rst = false)
    (hf : s.nextEdge.finish = false) (hn : n + 1 < Config.latMax) :
    step s = .next { s.tick with phase := .busy (n + 1) } := by
  simp [step, clockEdge, hp, hr, hf, completesNow, hn]

/-- Settles O12: every edge has one of the six effects. -/
theorem everyStepAnswersNext : Obligations.EveryStepAnswersNext := fun s => by
  obtain ⟨t, ht, -⟩ := clockEdge_effect s
  exact ⟨t, ht⟩

/-- Settles O14: the reset edge reads nothing of the sampled inputs and the phase, and the phase in reset holds both outputs at
0. -/
theorem resetEdgeClearsStatusAndAbandons : Obligations.ResetEdgeClearsStatusAndAbandons := by
  intro s h
  have hword : s.tick.resetEdge.status.word = 0x00 := by
    rw [State.resetEdge_status]
    decide
  exact ⟨_, step_of_rst h, hword, rfl, rfl, rfl, rfl, rfl, fun _ _ _ => step_of_rst h⟩

/-- Settles O13: by evaluation of the reset state. -/
theorem resetStateAsTheSpecGivesIt : Obligations.ResetStateAsTheSpecGivesIt :=
  ⟨rfl, rfl, rfl, rfl, rfl, rfl, rfl, rfl⟩

/-- Settles O15: the phase in reset ends at the first edge with rst low. -/
theorem idleAfterResetReleased : Obligations.IdleAfterResetReleased := fun _ => step_of_inReset

/-! ### A command in flight -/

/-- A command in flight ends in a completion cycle with the code of its sampled word. -/
theorem step_completes_with_response {s : State} {n : Nat} (hp : s.phase = .busy n) (hr : s.nextEdge.rst = false)
    (hc : s.nextEdge.finish = true ∨ Config.latMax ≤ n + 1) :
    ∃ t, step s = .next t ∧ t.phase = .done (responseOf s.cmdLatch s.status.keyValid s.status.stValid) := by
  rw [step_of_completes hp hr hc, perform_eq_answer]
  obtain ⟨t, ht, hphase, -⟩ := exists_answer_eq_next s.tick
    (responseOf s.cmdLatch s.status.keyValid s.status.stValid) (sampledWrites s.tick)
  exact ⟨t, ht, hphase⟩

theorem cmdReady_of_busy {s : State} {n : Nat} (hp : s.phase = .busy n) : s.cmdReady = false := by
  simp [State.cmdReady, hp, Phase.ready]

/-- Settles O17: without a completion the edge counts one more, and with LAT_MAX used up it completes. -/
theorem commandInFlightCommitsNothing : Obligations.CommandInFlightCommitsNothing := by
  intro s n hp hr hf
  refine ⟨cmdReady_of_busy hp, ?_⟩
  by_cases hn : n + 1 < Config.latMax
  · refine ⟨_, step_of_waits hp hr hf hn, ?_⟩
    rw [if_pos hn]
    exact ⟨rfl, rfl, rfl⟩
  · obtain ⟨t, ht, hphase⟩ := step_completes_with_response hp hr (.inr (not_lt.mp hn))
    refine ⟨t, ht, ?_⟩
    rw [if_neg hn]
    exact ⟨_, hphase⟩

/-- Settles O18: the completing edge performs the sampled word, here a command. -/
theorem stepRunsTheSampledCommand : Obligations.StepRunsTheSampledCommand := by
  intro s n i hp hr hc hi
  rw [step_of_completes hp hr hc, perform, State.tick_cmdLatch, hi]
  rfl

/-- Settles O19: the completing edge performs the sampled word, here one that the decoder rejects. -/
theorem stepAnswersTheSampledBadWord : Obligations.StepAnswersTheSampledBadWord := by
  intro s n code hp hr hc hcode
  rw [step_of_completes hp hr hc, perform, State.tick_cmdLatch, hcode]
  rfl

/-- Settles O20: the edge that withFetchWord puts first completes the word it places. -/
theorem fetchWordRunsItsCommand : Obligations.FetchWordRunsItsCommand := by
  intro s w i hi
  have hword : BitVec.ofNat 32 (w % 2 ^ 32) = BitVec.ofNat 32 w := BitVec.eq_of_toNat_eq (by simp)
  rw [State.withFetchWord, hword]
  exact stepRunsTheSampledCommand (s.placeCommand (BitVec.ofNat 32 w)) 0 i rfl rfl (.inl rfl) hi

/-! ### The completion cycle -/

/-- A completion cycle lasts one cycle: no edge that begins in one ends in one. -/
theorem rspValid_after_done {t u : State} {code : RspCode} (hp : t.phase = .done code) (hu : step t = .next u) :
    u.rspValid = false := by
  cases step_effect hu with
  | reset | accepted | stayed => rfl
  | released _ h | waiting _ _ h | completed _ _ h => simp [hp] at h

/-- Settles O21: the ports of a completion cycle follow its phase, and the next edge leaves it. -/
theorem completionCycleShowsTheResponse : Obligations.CompletionCycleShowsTheResponse := by
  intro s n hp hr hc
  obtain ⟨t, ht, hphase⟩ := step_completes_with_response hp hr hc
  refine ⟨t, ht, fun hlow => ?_, fun u hu => rspValid_after_done hphase hu⟩
  have hvalid : t.rspValid = true := by simp [State.rspValid, State.rstPin, hphase, hlow]
  have hflight : t.phase.inFlight = false := by rw [hphase]; rfl
  refine ⟨hvalid, t.cmdReady_eq_true_iff.mpr ⟨by rw [hphase]; rfl, hlow⟩, ?_, ?_, ?_, ?_⟩
  · simp [State.rspCode, hphase, hvalid]
  · simp [State.dout, hflight, Mat.toBus]
  · simp [State.yout, hflight]
  · simp [State.statusPort, hflight]

end Sys2Proof.Machine
end

section
/-! Proofs of the reset and hazards family, part 3: the edges of one command, one after the other (R212, R213). -/

namespace Sys2Proof.Machine

/-! ### Runs -/

/-- A run begins with its first step. -/
theorem run_succ {s t : State} (h : step s = .next t) (k : Nat) :
    Host.Core.run Sys2Proof.core (k + 1) s = Host.Core.run Sys2Proof.core k t := by
  have hcore : Sys2Proof.core.step s = .next t := h
  simp only [Host.Core.run, hcore]

theorem run_one {s t : State} (h : step s = .next t) : Host.Core.run Sys2Proof.core 1 s = .next t := run_succ h 0

/-! ### The bound on the latency -/

/-- A schedule whose first entries have no reset has none at the coming edge. -/
theorem rst_nextEdge_of_take {s : State} {m : Nat} (h : ∀ e ∈ s.pins.take (m + 1), e.rst = false) :
    s.nextEdge.rst = false := by
  rw [State.nextEdge]
  cases hpins : s.pins with
  | nil => rfl
  | cons e rest => exact h e (by simp [hpins])

theorem rst_tail_of_take {ps : List Edge} {m : Nat} (h : ∀ e ∈ ps.take (m + 1), e.rst = false) :
    ∀ e ∈ ps.tail.take m, e.rst = false := by
  cases ps with
  | nil => simp
  | cons e rest =>
    rw [List.take_succ_cons] at h
    exact (List.forall_mem_cons.mp h).2

/-- With `m + 1` edges left of LAT_MAX and no reset in them, a command in flight reaches its completion cycle within them, with
the code of its sampled word. -/
theorem completes_within {m : Nat} {s : State} {n : Nat} (hp : s.phase = .busy n) (hm : n + m + 1 = Config.latMax)
    (hpins : ∀ e ∈ s.pins.take (m + 1), e.rst = false) :
    ∃ k t, 1 ≤ k ∧ k ≤ m + 1 ∧ Host.Core.run Sys2Proof.core k s = .next t ∧
      t.phase = .done (responseOf s.cmdLatch s.status.keyValid s.status.stValid) := by
  induction m generalizing s n with
  | zero =>
    obtain ⟨t, ht, hphase⟩ := step_completes_with_response hp (rst_nextEdge_of_take hpins) (.inr hm.ge)
    exact ⟨1, t, le_rfl, le_rfl, run_one ht, hphase⟩
  | succ m ih =>
    have hr := rst_nextEdge_of_take hpins
    cases hf : s.nextEdge.finish with
    | true =>
      obtain ⟨t, ht, hphase⟩ := step_completes_with_response hp hr (.inl hf)
      exact ⟨1, t, le_rfl, by omega, run_one ht, hphase⟩
    | false =>
      have hwait := step_of_waits hp hr hf (by omega)
      obtain ⟨k, t, -, hk, hrun, hphase⟩ := ih (s := { s.tick with phase := .busy (n + 1) }) rfl (by omega)
        (rst_tail_of_take hpins)
      exact ⟨k + 1, t, by omega, by omega, (run_succ hwait k).trans hrun, hphase⟩

/-- Settles O24: by induction on the edges left of LAT_MAX. -/
theorem commandsCompleteWithinLatMax : Obligations.CommandsCompleteWithinLatMax := by
  intro s n hp hn hpins
  obtain ⟨m, hm⟩ := Nat.exists_eq_add_of_lt hn
  have hleft : Config.latMax - n = m + 1 := by omega
  rw [hleft] at hpins ⊢
  exact completes_within hp hm.symm hpins

/-! ### The edges of one command as one transaction -/

/-- The edges of a command in flight, up to its completion after `m` waiting edges in all, come to performing the sampled word
with the schedule and the draw counter moved on. -/
theorem run_waits_completion {s t : State} {n m draws : Nat} {waits rest : List Edge} {last : Edge}
    (hp : s.phase = .busy n) (hpins : s.pins = waits ++ last :: rest)
    (hwaits : ∀ e ∈ waits, e.rst = false ∧ e.finish = false) (hm : m = n + waits.length) (hlat : m < Config.latMax)
    (hrst : last.rst = false) (hlast : last.finish = true ∨ m + 1 = Config.latMax)
    (hdraws : draws = s.draws + (waits.length + 1))
    (ht : perform (s.withInterface s.cmdLatch (.busy m) rest draws) = .next t) :
    Host.Core.run Sys2Proof.core (waits.length + 1) s = .next t := by
  induction waits generalizing s n with
  | nil =>
    obtain rfl : m = n := hm
    have hedge : s.nextEdge = last := by simp [State.nextEdge, hpins]
    have htick : s.tick = s.withInterface s.cmdLatch (.busy m) rest draws :=
      State.ext_fields rfl rfl rfl rfl rfl hp rfl rfl (by simp [hpins, State.withInterface]) hdraws.symm
    refine run_one ?_
    rw [step_of_completes hp (hedge ▸ hrst) (hlast.imp (hedge ▸ ·) Eq.ge), htick, ht]
  | cons e waits ih =>
    obtain ⟨⟨hr, hf⟩, htail⟩ := List.forall_mem_cons.mp hwaits
    have hedge : s.nextEdge = e := by simp [State.nextEdge, hpins]
    rw [List.length_cons] at hm hdraws
    have hwait := step_of_waits hp (hedge ▸ hr) (hedge ▸ hf) (by omega)
    exact (run_succ hwait _).trans
      (ih (s := { s.tick with phase := .busy (n + 1) }) rfl (by simp [hpins]) htail (by omega)
        (hdraws.trans (by simp only [State.tick_draws]; omega)) ht)

/-- Settles O25: acceptance samples the word and din, and what a command computes never looks at the interface fields that the
waiting edges change. -/
theorem cycleRunIsOneTransaction : Obligations.CycleRunIsOneTransaction := by
  intro s offer last waits rest hready hpins hr hv hwaits hlat hrst hlast
  have hedge : s.nextEdge = offer := by simp [State.nextEdge, hpins]
  have haccept : step s = .next (s.tick.accept offer.cmd offer.din) := by
    rw [step_of_cmdReady (s.cmdReady_eq_true_iff.mpr ⟨hready, hedge ▸ hr⟩), hedge, State.offer, if_pos hv]
  obtain ⟨t, ht, hinterface⟩ := perform_interface (s.accept offer.cmd offer.din) (.busy waits.length) rest
    (s.draws + (waits.length + 2))
  obtain ⟨-, hlatch, -⟩ := (transact_ending ht).frame
  refine ⟨t, ht, (run_succ haccept _).trans ?_⟩
  rw [hlatch]
  refine run_waits_completion (n := 0) rfl (by simp [hpins]) hwaits (Nat.zero_add _).symm hlat hrst hlast ?_ hinterface
  simp only [State.accept_draws, State.tick_draws]
  omega

end Sys2Proof.Machine
end

section
/-! Proofs of the whole-machine family, part 1: what one edge keeps (R28, R187, and the invariant of Safety). -/

namespace Sys2Proof.Machine

/-! ### STATUS -/

/-- A command clears none of the four sticky bits. -/
theorem Ending.keeps_bits {s t : State} (h : Ending s t) :
    (s.status.keyValid = true → t.status.keyValid = true) ∧ (s.status.stValid = true → t.status.stValid = true) ∧
    (s.status.yValid = true → t.status.yValid = true) ∧ (s.status.err = true → t.status.err = true) := by
  cases h <;> simp

/-- Settles O28: apart from reset only a completing command writes STATUS. -/
theorem onlyResetClearsStatusBits : Obligations.OnlyResetClearsStatusBits := by
  intro s t hstep hr
  cases step_effect hstep with
  | reset h => simp [hr] at h
  | completed _ _ _ _ _ _ he => exact he.keeps_bits
  | released | waiting | accepted | stayed => exact ⟨id, id, id, id⟩

/-! ### The invariant -/

/-- An edge that leaves the ROMs, RK and STATUS alone and completes no command keeps the invariant, as long as the count of a
command in flight is in bounds. -/
theorem State.Inv.of_registers_eq {s t : State} (hs : s.Inv) (hrom : t.rom = s.rom) (hrk : t.rk = s.rk)
    (hstatus : t.status = s.status) (hdone : ∀ code, t.phase ≠ .done code)
    (hbusy : ∀ n, t.phase = .busy n → n < Config.latMax) : t.Inv where
  keyed := by rw [hstatus, hrk, hrom]; exact hs.keyed
  recorded := by rw [hstatus]; exact hs.recorded
  reported code h := absurd h (hdone code)
  bounded := hbusy

/-- KEY_VALID after a command means that RK holds an expanded key: the command left RK alone or expanded one. -/
theorem Ending.keyed {s t : State} (h : Ending s t)
    (hs : s.status.keyValid = true → ∃ key : BusWord, s.rk = expandKey s.rom (bytes key)) :
    t.status.keyValid = true → ∃ key : BusWord, t.rk = expandKey t.rom (bytes key) := by
  cases h with
  | keys key => exact fun _ => ⟨key, rfl⟩
  | error | plain | scalar | loaded | written => exact hs

/-- The end of a command keeps the invariant. -/
theorem Ending.inv {s t : State} (h : Ending s t) (hs : s.Inv) : t.Inv where
  keyed := h.keyed hs.keyed
  recorded hcode := by simp [h.err_eq, hcode]
  reported code hp := by simpa [h.completion] using hp
  bounded n hp := by simp [h.completion] at hp

/-- Settles O26: STATUS is cleared and no command is in flight. -/
theorem invariantHoldsAtReset : Obligations.InvariantHoldsAtReset where
  keyed h := by cases h
  recorded h := absurd rfl h
  reported _ h := by cases h
  bounded _ h := by cases h

theorem latMax_pos : 0 < Config.latMax := Nat.succ_pos _

/-- Settles O27: by the six effects of an edge. -/
theorem stepKeepsTheInvariant : Obligations.StepKeepsTheInvariant := by
  intro s t hs hstep
  cases step_effect hstep with
  | reset =>
    exact { keyed := nofun, recorded := fun h => absurd rfl h, reported := nofun, bounded := nofun }
  | completed _ n hp _ _ _ he =>
    have htick : s.tick.Inv := { keyed := hs.keyed, recorded := hs.recorded, reported := hs.reported, bounded := hs.bounded }
    exact he.inv htick
  | waiting _ n _ hc =>
    have hn : ¬ Config.latMax ≤ n + 1 := fun h => by simp [(completesNow_eq_true_iff _ _).mpr (.inr h)] at hc
    exact hs.of_registers_eq rfl rfl rfl nofun (by rintro _ ⟨⟩; exact not_le.mp hn)
  | accepted => exact hs.of_registers_eq rfl rfl rfl nofun (by rintro _ ⟨⟩; exact latMax_pos)
  | released | stayed => exact hs.of_registers_eq rfl rfl rfl nofun nofun

end Sys2Proof.Machine
end

section
/-! Proofs of the whole-machine family, part 2: no result depends on what reset leaves unspecified (R32). A command that reads RK
or ST answers an error where the valid bit is 0, and else the two states hold the same value. -/

namespace Sys2Proof.Machine

/-! ### Updates of two states that agree -/

section

variable {s t : State}

theorem State.AgreeOnValid.nextEdge_eq (h : s.AgreeOnValid t) : s.nextEdge = t.nextEdge := by
  rw [State.nextEdge, State.nextEdge, h.pins, h.draws]

theorem State.AgreeOnValid.blockOperand_eq (h : s.AgreeOnValid t) : s.blockOperand = t.blockOperand :=
  congrArg bytes h.dinLatch

theorem State.AgreeOnValid.tick (h : s.AgreeOnValid t) : s.tick.AgreeOnValid t.tick :=
  { h with pins := congrArg List.tail h.pins, draws := congrArg (· + 1) h.draws }

theorem State.AgreeOnValid.withPhase (h : s.AgreeOnValid t) (p : Phase) :
    State.AgreeOnValid { s with phase := p } { t with phase := p } :=
  { h with phase := rfl }

theorem State.AgreeOnValid.accept (h : s.AgreeOnValid t) (w : CmdWord) (d : BusWord) :
    (s.accept w d).AgreeOnValid (t.accept w d) :=
  { h with phase := rfl, cmdLatch := rfl, dinLatch := rfl }

theorem State.AgreeOnValid.resetEdge (h : s.AgreeOnValid t) : s.resetEdge.AgreeOnValid t.resetEdge where
  rom := h.rom
  status := rfl
  rk := nofun
  st := nofun
  y := nofun
  phase := rfl
  cmdLatch := h.cmdLatch
  dinLatch := h.dinLatch
  pins := h.pins
  draws := h.draws

theorem State.AgreeOnValid.loadKeys (h : s.AgreeOnValid t) {k k' : RoundKeys} (hk : k = k') :
    (s.loadKeys k).AgreeOnValid (t.loadKeys k') :=
  { h with status := congrArg Status.setKeyValid h.status, rk := fun _ => hk }

theorem State.AgreeOnValid.loadSt (h : s.AgreeOnValid t) {m m' : Mat} (hm : m = m') :
    (s.loadSt m).AgreeOnValid (t.loadSt m') :=
  { h with status := congrArg Status.setStValid h.status, st := fun _ => hm }

theorem State.AgreeOnValid.writeSt (h : s.AgreeOnValid t) {m m' : Mat} (hm : m = m') :
    (s.writeSt m).AgreeOnValid (t.writeSt m') :=
  { h with st := fun _ => hm }

theorem State.AgreeOnValid.writeY (h : s.AgreeOnValid t) {v v' : Byte} (hv : v = v') :
    (s.writeY v).AgreeOnValid (t.writeY v') :=
  { h with status := congrArg Status.setYValid h.status, y := fun _ => hv }

theorem State.AgreeOnValid.raise (h : s.AgreeOnValid t) (code : RspCode) : (s.raise code).AgreeOnValid (t.raise code) :=
  { h with status := congrArg (Status.afterError code) h.status, phase := rfl }

theorem State.AgreeOnValid.completeOk (h : s.AgreeOnValid t) : s.completeOk.AgreeOnValid t.completeOk :=
  { h with status := congrArg Status.afterOk h.status, phase := rfl }

theorem State.AgreeOnValid.elim {α : Type} (h : s.AgreeOnValid t) (operand : Option α) {f g : α → State}
    (hfg : ∀ v, (f v).AgreeOnValid (g v)) : (operand.elim s f).AgreeOnValid (operand.elim t g) := by
  cases operand with
  | some v => exact hfg v
  | none => exact h

/-! ### The writes of a command -/

/-- Two states that agree, and that hold the same RK and ST where the command reads them, agree after the command's writes. -/
theorem State.AgreeOnValid.commandWrites {i : Instr} (h : s.AgreeOnValid t)
    (hrk : i.opcode ∈ Opcode.readingRk → s.rk = t.rk) (hst : i.opcode ∈ Opcode.readingSt → s.st = t.st) :
    (commandWrites i s).AgreeOnValid (commandWrites i t) := by
  cases i with
  | nop => exact h
  | ldst => exact h.loadSt (congrArg mat h.blockOperand_eq)
  | keyexp => exact h.loadKeys (by rw [h.rom, h.blockOperand_eq])
  | keyfix => exact h.loadKeys (by rw [h.rom])
  | ldrk r => exact h.elim _ fun k => h.loadSt (congrArg (Vector.get · k) (hrk (by simp [Instr.opcode])))
  | xtime a => exact h.writeY rfl
  | gfmul a b => exact h.elim _ fun k => h.writeY rfl
  | sbox a | isbox a => exact h.writeY (by rw [h.rom])
  | subb | isubb => exact h.writeSt (by rw [h.rom, hst (by simp [Instr.opcode])])
  | shrow | ishrow | mixcol | imixcol => exact h.writeSt (by rw [hst (by simp [Instr.opcode])])
  | ark r =>
    have hkeys : s.rk = t.rk := hrk (by simp [Instr.opcode])
    have hblock : s.st = t.st := hst (by simp [Instr.opcode])
    exact h.elim _ fun k => h.writeSt (by rw [State.roundKeyAt, State.roundKeyAt, hkeys, hblock])
  | encrnd r | decrnd r =>
    have hkeys : s.rk = t.rk := hrk (by simp [Instr.opcode])
    have hblock : s.st = t.st := hst (by simp [Instr.opcode])
    exact h.elim _ fun k => h.writeSt (by rw [h.rom, hkeys, hblock])
  | encblk | decblk => exact h.writeSt (by rw [h.rom, hrk (by simp [Instr.opcode]), hst (by simp [Instr.opcode])])

/-! ### The answer of a command, and one edge -/

/-- Both outcomes are next states, and these agree. -/
def OutcomesAgree (a b : Outcome) : Prop := ∃ u v, a = .next u ∧ b = .next v ∧ u.AgreeOnValid v

theorem State.AgreeOnValid.answer {u v : State} (h : s.AgreeOnValid t) (code : RspCode)
    (hw : code = .ok → u.AgreeOnValid v) : OutcomesAgree (answer s code u) (answer t code v) := by
  by_cases hc : code = .ok
  · rw [hc, answer_of_ok, answer_of_ok]
    exact ⟨_, _, rfl, rfl, (hw hc).completeOk⟩
  · rw [answer_of_error hc, answer_of_error hc]
    exact ⟨_, _, rfl, rfl, h.raise code⟩

theorem checkCode_eq_ok_iff (inRange keyed loaded : Bool) :
    checkCode inRange keyed loaded = .ok ↔ inRange = true ∧ keyed = true ∧ loaded = true := by
  cases inRange <;> cases keyed <;> cases loaded <;> decide

/-- A command that ends OK reads RK and ST under their valid bits alone (R30). -/
theorem valid_of_response_ok {i : Instr} {keyValid stValid : Bool} (h : i.response keyValid stValid = .ok) :
    (i.opcode ∈ Opcode.readingRk → keyValid = true) ∧ (i.opcode ∈ Opcode.readingSt → stValid = true) := by
  obtain ⟨-, hk, hs⟩ := (checkCode_eq_ok_iff _ _ _).mp h
  rw [Bool.or_eq_true, decide_eq_true_iff] at hk hs
  exact ⟨fun hm => hk.resolve_left (not_not_intro hm), fun hm => hs.resolve_left (not_not_intro hm)⟩

theorem State.AgreeOnValid.sampledWrites (h : s.AgreeOnValid t)
    (hok : responseOf s.cmdLatch s.status.keyValid s.status.stValid = .ok) :
    (sampledWrites s).AgreeOnValid (sampledWrites t) := by
  rw [Machine.sampledWrites, Machine.sampledWrites, ← h.cmdLatch]
  cases hd : decode s.cmdLatch with
  | rejected code => exact h
  | command i =>
    rw [responseOf_of_command hd] at hok
    obtain ⟨hk, hs⟩ := valid_of_response_ok hok
    exact h.commandWrites (fun hm => h.rk (hk hm)) (fun hm => h.st (hs hm))

theorem State.AgreeOnValid.perform (h : s.AgreeOnValid t) : OutcomesAgree (perform s) (perform t) := by
  rw [perform_eq_answer, perform_eq_answer, ← h.cmdLatch, ← h.status]
  exact h.answer _ h.sampledWrites

theorem State.AgreeOnValid.offer (h : s.AgreeOnValid t) (e : Edge) : (s.offer e).AgreeOnValid (t.offer e) := by
  rw [State.offer, State.offer]
  split
  · exact h.accept e.cmd e.din
  · exact h.withPhase .idle

theorem State.AgreeOnValid.clockEdge (h : s.AgreeOnValid t) : OutcomesAgree (clockEdge s) (clockEdge t) := by
  simp only [Machine.clockEdge, ← h.nextEdge_eq, ← h.phase]
  cases s.nextEdge.rst with
  | true => exact ⟨_, _, rfl, rfl, h.tick.resetEdge⟩
  | false =>
    cases s.phase with
    | inReset => exact ⟨_, _, rfl, rfl, h.tick.withPhase .idle⟩
    | idle | done code => exact ⟨_, _, rfl, rfl, h.tick.offer _⟩
    | busy n =>
      simp only [Bool.false_eq_true, ↓reduceIte]
      cases completesNow s.nextEdge.finish n with
      | true => exact h.tick.perform
      | false => exact ⟨_, _, rfl, rfl, h.tick.withPhase (.busy (n + 1))⟩

end

/-- Settles O29: an edge takes states that agree to states that agree. -/
theorem unspecifiedValuesNeverMatter : Obligations.UnspecifiedValuesNeverMatter := by
  intro s t s' t' h hs ht
  obtain ⟨u, v, hu, hv, huv⟩ := h.clockEdge
  obtain rfl : u = s' := Host.Outcome.next.inj (hu.symm.trans hs)
  obtain rfl : v = t' := Host.Outcome.next.inj (hv.symm.trans ht)
  exact huv

end Sys2Proof.Machine
end

section
/-! Proofs of the whole-machine family, part 3: the checks of a command on its own (R30, R65, R66), and which registers a command
writes (R20, R25 to R27). -/

namespace Sys2Proof.Machine

/-! ### The checks -/

/-- A command whose checks give an error answers it with R185's whole frame. -/
theorem exec_of_response_error {i : Instr} {s : State} {code : RspCode}
    (h : i.response s.status.keyValid s.status.stValid = code) (herr : code ≠ .ok) :
    exec i s = .next { s with status := { s.status with err := true, lastCode := code }, phase := .done code } := by
  rw [exec_eq_answer, h, answer_of_error herr]
  rfl

/-- Settles O10: the range is checked before the valid bits. -/
theorem outOfRangeOperandsAreRejected : Obligations.OutOfRangeOperandsAreRejected := by
  intro i s hwf
  have hcode : i.response s.status.keyValid s.status.stValid = .errRange := by
    rw [Instr.response, hwf]
    rfl
  exact exec_of_response_error hcode (by decide)

/-- The opcodes that read both ST and RK. -/
theorem mem_of_readingSt_of_readingRk {o : Opcode} (hst : o ∈ Opcode.readingSt) (hrk : o ∈ Opcode.readingRk) :
    o ∈ [Opcode.ark, .encrnd, .decrnd, .encblk, .decblk] := by
  cases o <;> revert hst hrk <;> decide

/-- Settles O11: KEY_VALID is checked before ST_VALID, each for the commands that read under it. -/
theorem readsOfUnloadedStateAreRejected : Obligations.ReadsOfUnloadedStateAreRejected := by
  intro i s hwf
  refine ⟨fun hrk hkey => ?_, fun hst hstate hkeyed => ?_⟩
  · have hcode : i.response s.status.keyValid s.status.stValid = .errNoKey := by
      simp only [Instr.response, checkCode, hwf, hkey, decide_eq_false (not_not_intro hrk), Bool.or_false, ↓reduceIte,
        Bool.true_eq_false]
    exact exec_of_response_error hcode (by decide)
  · have hkey : (decide (i.opcode ∉ Opcode.readingRk) || s.status.keyValid) = true := by
      rw [Bool.or_eq_true, decide_eq_true_iff, or_iff_not_imp_left, not_not]
      exact fun hrk => hkeyed (mem_of_readingSt_of_readingRk hst hrk)
    have hcode : i.response s.status.keyValid s.status.stValid = .errNoState := by
      simp only [Instr.response, checkCode, hwf, hkey, hstate, decide_eq_false (not_not_intro hst), Bool.or_false, ↓reduceIte,
        Bool.true_eq_false]
    exact exec_of_response_error hcode (by decide)

/-! ### The writers of each register -/

/-- A field that the writes leave alone is left alone by the answer. -/
theorem answer_frame {α : Type} {field : State → α} (hraise : ∀ code s, field (State.raise code s) = field s)
    (hok : ∀ s, field (State.completeOk s) = field s) {s t u : State} {code : RspCode} (h : answer s code t = .next u)
    (ht : field t = field s) : field u = field s := by
  by_cases hc : code = .ok
  · rw [hc, answer_of_ok] at h
    rw [← Host.Outcome.next.inj h, hok, ht]
  · rw [answer_of_error hc] at h
    rw [← Host.Outcome.next.inj h, hraise]

theorem elim_frame {α β : Type} {field : State → β} (operand : Option α) {s : State} {f : α → State}
    (h : ∀ v, field (f v) = field s) : field (operand.elim s f) = field s := by
  cases operand with
  | some v => exact h v
  | none => rfl

/-- Only KEYEXP and KEYFIX write RK (R25). -/
theorem commandWrites_rk {i : Instr} (h : i.opcode ∉ [Opcode.keyexp, .keyfix]) (s : State) :
    (commandWrites i s).rk = s.rk := by
  cases i with
  | keyexp | keyfix => simp [Instr.opcode] at h
  | ldrk r | gfmul a b | ark r | encrnd r | decrnd r => exact elim_frame (field := State.rk) _ fun _ => rfl
  | _ => rfl

/-- Only the commands of R26 write ST. -/
theorem commandWrites_st {i : Instr}
    (h : i.opcode ∉ [Opcode.ldst, .ldrk, .subb, .isubb, .shrow, .ishrow, .mixcol, .imixcol, .ark, .encrnd, .decrnd, .encblk,
      .decblk]) (s : State) : (commandWrites i s).st = s.st := by
  cases i with
  | nop | keyexp | keyfix | xtime a | sbox a | isbox a => rfl
  | gfmul a b => exact elim_frame (field := State.st) _ fun _ => rfl
  | _ => simp [Instr.opcode] at h

/-- Only XTIME, GFMUL, SBOX and ISBOX write Y (R27). -/
theorem commandWrites_y {i : Instr} (h : i.opcode ∉ [Opcode.xtime, .gfmul, .sbox, .isbox]) (s : State) :
    (commandWrites i s).y = s.y := by
  cases i with
  | xtime a | gfmul a b | sbox a | isbox a => simp [Instr.opcode] at h
  | ldrk r | ark r | encrnd r | decrnd r => exact elim_frame (field := State.y) _ fun _ => rfl
  | _ => rfl

/-- Settles O30: a command writes what `commandWrites` lists, or nothing where a check fails. -/
theorem onlyTheListedCommandsWrite : Obligations.OnlyTheListedCommandsWrite := by
  intro i s t h
  obtain ⟨u, hu, he⟩ := exec_ending i s
  obtain rfl : u = t := Host.Outcome.next.inj (hu.symm.trans h)
  rw [exec_eq_answer] at h
  refine ⟨he.frame.1, ?_, ?_, ?_⟩ <;> refine not_imp_comm.mp fun hi => ?_
  · exact answer_frame (field := State.rk) State.raise_rk State.completeOk_rk h (commandWrites_rk hi s)
  · exact answer_frame (field := State.st) State.raise_st State.completeOk_st h (commandWrites_st hi s)
  · exact answer_frame (field := State.y) State.raise_y State.completeOk_y h (commandWrites_y hi s)

end Sys2Proof.Machine
end

section
/-! Proofs of the state family: the output ports, the storage spaces and the commands that load a register (R26 to R28, R40 to
R43, R92, R93, R105, R106, R170, R171). -/

namespace Sys2Proof.Machine

/-! ### The ports -/

theorem inFlight_of_not_busy {s : State} (h : ∀ n, s.phase ≠ .busy n) : s.phase.inFlight = false := by
  cases hp : s.phase with
  | busy n => exact absurd hp (h n)
  | inReset | idle | done code => rfl

theorem flat_cellIndex (m : Mat) (r c : Fin 4) : flat m (cellIndex r c) = m.get r c := by
  rw [flat, indexRow_cellIndex, indexCol_cellIndex]

/-- Byte 4c + r of the bus value of a matrix is its cell at row r and column c (R42, R43). -/
theorem busByte_toBus (m : Mat) (r c : Fin 4) : busByte m.toBus (4 * c.val + r.val) = m.get r c := by
  have hbyte : bytes m.toBus (cellIndex r c) = flat m (cellIndex r c) := by rw [Mat.toBus, bytes_bus]
  exact hbyte.trans (flat_cellIndex m r c)

/-- Settles O22: outside a flight the ports carry the registers. -/
theorem outputsCarryStColumnMajor : Obligations.OutputsCarryStColumnMajor := by
  intro s h
  have hflight := inFlight_of_not_busy h
  refine ⟨fun r c => ?_, ?_⟩
  · rw [State.dout, if_neg (by simp [hflight]), busByte_toBus]
  · rw [State.yout, if_neg (by simp [hflight])]

/-- The byte of STATUS, field by field (R28), by looking at all values of the five fields. -/
theorem Status.word_fields (s : Status) :
    s.word.getLsbD 0 = s.keyValid ∧ s.word.getLsbD 1 = s.stValid ∧ s.word.getLsbD 2 = s.yValid ∧
      s.word.getLsbD 3 = s.err ∧ s.word.extractLsb' 4 4 = s.lastCode.bits := by
  obtain ⟨k, st, y, e, code⟩ := s
  cases code <;> revert k st y e <;> decide

/-- Settles O23: the port carries the byte of STATUS, and the codes have R181's values. -/
theorem statusPortFields : Obligations.StatusPortFields := by
  intro s h
  have hport : s.statusPort = s.status.word := by
    rw [State.statusPort, if_neg (by simp [inFlight_of_not_busy h])]
  rw [hport]
  obtain ⟨hk, hs, hy, he, hc⟩ := s.status.word_fields
  refine ⟨hk, hs, hy, he, hc.trans ?_⟩
  cases s.status.lastCode <;> rfl

/-! ### The storage spaces -/

theorem getElem?_toList_flat (m : Mat) (r c : Fin 4) : (Buf.toList (flat m))[4 * c.val + r.val]? = some (m.get r c) := by
  have hlt : 4 * c.val + r.val < 16 := (cellIndex r c).isLt
  rw [Buf.toList, List.getElem?_ofFn, dif_pos hlt]
  exact congrArg some (flat_cellIndex m r c)

/-- Settles O33: the bounds of R40 are those of `memRead`, and an entry of RK is its 16 cells. -/
theorem storageReadsAreWholeEntries : Obligations.StorageReadsAreWholeEntries := by
  intro s i
  refine ⟨if_congr Nat.lt_succ_iff rfl rfl, if_congr Nat.lt_succ_iff rfl rfl, rfl, fun k => ?_, fun hi => ?_⟩
  · exact ⟨_, dif_pos k.isLt, List.length_ofFn, getElem?_toList_flat _⟩
  · exact dif_neg (not_lt.mpr hi)

/-! ### NOP, LDST and the table look-ups -/

/-- Settles O34: NOP completes with no write. -/
theorem nopChangesOnlyLastCode : Obligations.NopChangesOnlyLastCode := fun _ => rfl

theorem exec_ldst (s : State) : exec .ldst s = .next (s.loadSt (Mat.ofBus s.dinLatch)).completeOk := rfl

/-- Settles O35: a Block goes in column-major and comes out the same. -/
theorem ldstLoadsDinColumnMajor : Obligations.LdstLoadsDinColumnMajor := fun s =>
  ⟨_, exec_ldst s, mat_get (bytes s.dinLatch), Mat.toBus_ofBus s.dinLatch, rfl⟩

/-- Settles O43: the look-up is the table's entry by row and column. -/
theorem sboxAndIsboxLookUp : Obligations.SboxAndIsboxLookUp := fun _ _ => ⟨rfl, rfl⟩

/-! ### The key commands -/

theorem exec_keyfix (s : State) : exec .keyfix s = .next (s.loadKeys (expandKey s.rom (bytes fixedKeyValue))).completeOk := by
  rw [← s.rom.fixedKey_constant]
  rfl

/-- Settles O37: FIXED_KEY is hard-wired, and KEYEXP expands the same key from din. -/
theorem keyfixExpandsTheFixedKey : Obligations.KeyfixExpandsTheFixedKey := fun s =>
  ⟨_, exec_keyfix s, isKeySchedule_expandKey s.rom fixedKeyValue, rfl, exec_keyexp _⟩

theorem exec_ldrk {r : BitVec 4} {k : Fin 11} {s : State} (hr : r.toNat = k.val) (hk : s.status.keyValid = true) :
    exec (.ldrk r) s = .next (s.loadSt (s.rk.get k)).completeOk := by
  change execLdrk r s = _
  rw [execLdrk, keyIndex_of_toNat_eq hr, requireRange_some, requireKey_of_valid hk]
  rfl

/-- Settles O38: the index r is in range, and LDRK writes the round key to ST. -/
theorem ldrkCopiesARoundKey : Obligations.LdrkCopiesARoundKey := fun _ _ _ => exec_ldrk

/-- Settles O39: round key 0 is the key itself, in column-major form. -/
theorem ldrkZeroShowsTheKey : Obligations.LdrkZeroShowsTheKey := by
  intro key d s
  have hkeyexp : decode 0x02000000 = .command .keyexp := by decide
  have hldrk : decode 0x04000000 = .command (.ldrk 0) := by decide
  refine ⟨_, _, (transact_of_command hkeyexp key s).trans (exec_keyexp _),
    (transact_of_command hldrk d _).trans (exec_ldrk (k := 0) rfl rfl), ?_⟩
  exact Mat.toBus_ofBus key

end Sys2Proof.Machine
end

section
/-! Proofs of the field and table family, part 4: the generating rule of the tables (R85, log 21). -/

namespace Sys2Proof.Machine

/-- The inverse of `affine`: bit i is v[i+2], v[i+5], v[i+7] (indices mod 8) and bit i of 0x05, all XORed. -/
def affineInverse (v : Byte) : Byte := v.rotateRight 2 ^^^ v.rotateRight 5 ^^^ v.rotateRight 7 ^^^ 0x05

/-- `affine` undoes `affineInverse`, by looking at all 256 bytes. -/
theorem affine_affineInverse (v : Byte) : affine (affineInverse v) = v := by
  revert v
  decide

/-- SBOX maps 0 to the transform of 0, by the table's first entry. -/
theorem affineInverse_sboxAt_zero (rom : Rom) : affineInverse (rom.sboxAt 0) = 0 := by
  rw [rom.eq_contents]
  decide

/-- The entry of x, taken back through the transform, is the inverse of x in GF(2^8), by looking at all 256 entries. -/
theorem fieldMultiplyFull_affineInverse_sboxAt (rom : Rom) {x : Byte} (hx : x ≠ 0) :
    fieldMultiplyFull x (affineInverse (rom.sboxAt x)) = 1 := by
  rw [rom.eq_contents]
  revert x
  decide

/-- Settles O47: the inverse of x is its table entry taken back through the affine transform. -/
theorem sboxIsInverseThenAffine : Obligations.SboxIsInverseThenAffine := by
  intro rom x
  refine ⟨affineInverse (rom.sboxAt x), ?_, fieldMultiplyFull_affineInverse_sboxAt rom,
    (affine_affineInverse (rom.sboxAt x)).symm⟩
  rintro rfl
  exact affineInverse_sboxAt_zero rom

end Sys2Proof.Machine
end

section
/-! Proofs of the pipeline family, part 3: the pipelines one command at a time (R70, R155). Between two commands of a pipeline the
machine stands in the state that has written a matrix to ST and ended OK. -/

namespace Sys2Proof.Machine

/-! ### The states between the commands -/

/-- `s` after a command that left `m` in ST and ended OK. -/
def State.doneWith (m : Mat) (s : State) : State := (s.writeSt m).completeOk

@[simp] theorem State.doneWith_st (m : Mat) (s : State) : (s.doneWith m).st = m := rfl

theorem State.eq_doneWith_st {s t : State} {m : Mat} (h : t = s.doneWith m) : t = s.doneWith t.st := by
  rw [h, State.doneWith_st]

section

variable {s : State} (hk : s.status.keyValid = true) (hs : s.status.stValid = true)

include hk hs

theorem exec_ark_doneWith {r : BitVec 4} {k : Fin 11} (hr : r.toNat = k.val) (m : Mat) :
    exec (.ark r) (s.doneWith m) = .next (s.doneWith (addRoundKey m (s.rk.get k))) :=
  exec_ark (s := s.doneWith m) hr hk hs

theorem exec_encrnd_doneWith {r : BitVec 4} {k : Fin 11} (hr : r.toNat = k.val) (h1 : 1 ≤ k.val) (m : Mat) :
    exec (.encrnd r) (s.doneWith m) = .next (s.doneWith (encRound s.rom s.rk k m)) :=
  exec_encrnd (s := s.doneWith m) hr h1 hk hs

theorem exec_decrnd_doneWith {r : BitVec 4} {k : Fin 11} (hr : r.toNat = k.val) (h9 : k.val ≤ 9) (m : Mat) :
    exec (.decrnd r) (s.doneWith m) = .next (s.doneWith (decRound s.rom s.rk k m)) :=
  exec_decrnd (s := s.doneWith m) hr h9 hk hs

end

/-! ### The stepwise sequences against the block commands -/

/-- A sequence runs its first command and then the others. -/
theorem runCommands_command {i : Instr} {s t : State} (h : exec i (s.accept (encode i) 0) = .next t) (cs : List Command) :
    runCommands (command i :: cs) s = runCommands cs t := by
  have htransact : transact (command i).word (command i).din s = .next t :=
    (transact_of_command (decode_encode i) 0 s).trans h
  simp only [runCommands, htransact]

/-- Commands each of which transforms ST by `f k` leave the values of the fold in ST, whatever was sampled on the way. -/
theorem runCommands_rounds {s : State} {instr : Fin 11 → Instr} {f : Fin 11 → Mat → Mat} {ks : List (Fin 11)}
    (h : ∀ k ∈ ks, ∀ w d m, exec (instr k) ((s.accept w d).doneWith m) = .next ((s.accept w d).doneWith (f k m)))
    (w : CmdWord) (d : BusWord) (m : Mat) :
    ∃ w' d', runCommands (ks.map fun k => command (instr k)) ((s.accept w d).doneWith m) =
      .next ((s.accept w' d').doneWith (ks.foldl (fun x k => f k x) m)) := by
  induction ks generalizing w d m with
  | nil => exact ⟨w, d, rfl⟩
  | cons k ks ih =>
    obtain ⟨hhead, htail⟩ := List.forall_mem_cons.mp h
    obtain ⟨w', d', hrun⟩ := ih htail (encode (instr k)) 0 (f k m)
    exact ⟨w', d', (runCommands_command (hhead (encode (instr k)) 0 m) _).trans hrun⟩

/-- A stepwise pipeline: the first round key added, and then the rounds. -/
theorem runCommands_ark_rounds {s : State} (hk : s.status.keyValid = true) (hs : s.status.stValid = true) {r : BitVec 4}
    {k₀ : Fin 11} (hr : r.toNat = k₀.val) {instr : Fin 11 → Instr} {f : Fin 11 → Mat → Mat} {ks : List (Fin 11)}
    (h : ∀ k ∈ ks, ∀ w d m, exec (instr k) ((s.accept w d).doneWith m) = .next ((s.accept w d).doneWith (f k m))) :
    ∃ w d, runCommands (command (.ark r) :: ks.map fun k => command (instr k)) s =
      .next ((s.accept w d).doneWith (ks.foldl (fun x k => f k x) (addRoundKey s.st (s.rk.get k₀)))) := by
  obtain ⟨w, d, hrun⟩ := runCommands_rounds h (encode (.ark r)) 0 (addRoundKey s.st (s.rk.get k₀))
  exact ⟨w, d, (runCommands_command (exec_ark hr hk hs) _).trans hrun⟩

theorem encsteps_expand : Pseudo.encsteps.expand =
    command (.ark 0) :: encRounds.map fun k => command (.encrnd (BitVec.ofNat 4 k.val)) := rfl

theorem decsteps_expand : Pseudo.decsteps.expand =
    command (.ark 10) :: decRounds.map fun k => command (.decrnd (BitVec.ofNat 4 k.val)) := rfl

/-- The field R holds every index of RK. -/
theorem toNat_ofNat_index (k : Fin 11) : (BitVec.ofNat 4 k.val).toNat = k.val := by
  rw [BitVec.toNat_ofNat, Nat.mod_eq_of_lt (by omega)]

/-- Settles O57: each sequence folds the rounds that its block command folds. -/
theorem stepwisePipelinesEqualBlockCommands : Obligations.StepwisePipelinesEqualBlockCommands := by
  intro s d hk hs
  have henc : decode 0x38000000 = .command .encblk := by decide
  have hdec : decode 0x39000000 = .command .decblk := by decide
  have henc1 : ∀ k ∈ encRounds, 1 ≤ k.val := by decide
  have hdec9 : ∀ k ∈ decRounds, k.val ≤ 9 := by decide
  rw [encsteps_expand, decsteps_expand]
  constructor
  · obtain ⟨w', d', hrun⟩ := runCommands_ark_rounds (r := 0) (k₀ := 0) (f := encRound s.rom s.rk) hk hs rfl
      fun k hmem w d m => exec_encrnd_doneWith (s := s.accept w d) hk hs (toNat_ofNat_index k) (henc1 k hmem) m
    exact ⟨_, _, (transact_of_command henc d s).trans (exec_encblk hk hs), hrun, rfl, rfl, rfl, rfl, rfl⟩
  · obtain ⟨w', d', hrun⟩ := runCommands_ark_rounds (r := 10) (k₀ := 10) (f := decRound s.rom s.rk) hk hs rfl
      fun k hmem w d m => exec_decrnd_doneWith (s := s.accept w d) hk hs (toNat_ofNat_index k) (hdec9 k hmem) m
    exact ⟨_, _, (transact_of_command hdec d s).trans (exec_decblk hk hs), hrun, rfl, rfl, rfl, rfl, rfl⟩

/-! ### The intermediate states of the two sequences -/

section

variable {s : State} {e dd : Nat → State} (hk : s.status.keyValid = true) (hs : s.status.stValid = true)

include hk hs

/-- One command of ENCSTEPS, from a state that stands with its own ST. -/
theorem encrnd_state {t u : State} {k : Fin 10} (ht : t = s.doneWith t.st)
    (h : exec (.encrnd (BitVec.ofNat 4 (k.val + 1))) t = .next u) :
    u = s.doneWith (encRound s.rom s.rk k.succ t.st) := by
  have hexec := exec_encrnd_doneWith hk hs (toNat_ofNat_index k.succ) (Nat.le_add_left 1 k.val) t.st
  rw [← ht] at hexec
  exact Host.Outcome.next.inj (h.symm.trans hexec)

/-- One command of DECSTEPS. -/
theorem decrnd_state {u : State} {k : Fin 10} {m : Mat}
    (h : exec (.decrnd (BitVec.ofNat 4 k.val)) (s.doneWith m) = .next u) :
    u = s.doneWith (decRound s.rom s.rk k.castSucc m) :=
  Host.Outcome.next.inj
    (h.symm.trans (exec_decrnd_doneWith hk hs (toNat_ofNat_index k.castSucc) (Nat.le_of_lt_succ k.isLt) m))

/-- The states of ENCSTEPS: each is the round of the one before. -/
theorem encsteps_states (hark : e 0 = s.doneWith (addRoundKey s.st (s.rk.get 0)))
    (henc : ∀ k : Fin 10, exec (.encrnd (BitVec.ofNat 4 (k.val + 1))) (e k.val) = .next (e (k.val + 1))) (k : Fin 10) :
    e (k.val + 1) = s.doneWith (encRound s.rom s.rk k.succ (e k.val).st) := by
  induction k using Fin.induction with
  | zero => exact encrnd_state hk hs (State.eq_doneWith_st hark) (henc 0)
  | succ k ih => exact encrnd_state hk hs (State.eq_doneWith_st ih) (henc k.succ)

/-- The states of DECSTEPS, from DECRND 9 down: the state before DECRND k is the one after ENCRND k behind
`shiftRows (subBytes …)`, and the round of decryption takes it to the same place behind the encryption round before. -/
theorem decsteps_states (he : ∀ k : Fin 10, e (k.val + 1) = s.doneWith (encRound s.rom s.rk k.succ (e k.val).st))
    (hark : exec (.ark 10) (e 10) = .next (dd 10))
    (hdec : ∀ k : Fin 10, exec (.decrnd (BitVec.ofNat 4 k.val)) (dd (k.val + 1)) = .next (dd k.val)) (k : Fin 10) :
    dd (k.val + 1) = s.doneWith (shiftRows (subBytes s.rom (e k.val).st)) := by
  induction k using Fin.reverseInduction with
  | last =>
    have he10 : e 10 = s.doneWith (encRound s.rom s.rk 10 (e 9).st) := he 9
    rw [he10, exec_ark_doneWith (r := 10) (k := 10) hk hs rfl, addRoundKey_encRound_ten] at hark
    exact (Host.Outcome.next.inj hark).symm
  | cast k ih =>
    have hexec := hdec k.succ
    rw [ih] at hexec
    have hnext := decrnd_state hk hs hexec
    have hst : (e k.succ.val).st = encRound s.rom s.rk k.succ.castSucc (e k.castSucc.val).st :=
      congrArg State.st (he k.castSucc)
    rw [hst, decRound_encRound (Fin.castSucc_ne_zero_iff.mpr (Fin.succ_ne_zero k)) (Fin.castSucc_ne_last k.succ)] at hnext
    exact hnext

end

/-- Settles O59: the states of DECSTEPS meet those of ENCSTEPS, and DECRND 0 takes off the first round key. -/
theorem decryptionIntermediateStates : Obligations.DecryptionIntermediateStates := by
  intro s e dd hk hs hark0 henc hark10 hdec
  have he0 : e 0 = s.doneWith (addRoundKey s.st (s.rk.get 0)) :=
    Host.Outcome.next.inj (hark0.symm.trans (exec_ark (r := 0) (k := 0) rfl hk hs))
  have hdd := decsteps_states hk hs (encsteps_states hk hs he0 henc) hark10 hdec
  refine ⟨fun k => congrArg State.st (hdd k.castSucc), ?_⟩
  have hexec := hdec 0
  rw [hdd 0, Fin.val_zero, he0, State.doneWith_st] at hexec
  rw [decrnd_state hk hs (k := 0) hexec]
  exact decRound_zero s.rom s.rk s.st

end Sys2Proof.Machine
end
